-- ==== Sys2Proof/Config.lean ====
section
/-! DEFINITION. What an implementation of the block fixes: the parameters of 00_scope.md R6 and R7. -/

namespace Sys2Proof

/-- `SHR_MODE` (00_scope.md R7; 42_shift.md R120): which formulas SHR follows. `logical` is the
spec's normative value; `docLiteral` reproduces the source's literal formulas. -/
inductive ShrMode where
  | logical
  | docLiteral
  deriving DecidableEq, Repr

namespace Config

/-- `LW`, the limb width (R6). -/
def limbWidth : Nat := 64

/-- `NL`, the limb count (R6). -/
def limbCount : Nat := 4

/-- `W = LW * NL`, the value width (R6). -/
def valueWidth : Nat := limbWidth * limbCount

/-- `CLZ_ZERO`, CLZ and CTZ of an all-zero value (R7; 92_eei_decisions.md D7 fixes it; log entry 5).
The rules R162 and R163 as written give this value; nothing in the machine reads it. -/
def clzZero : Nat := 256

/-- The value of `SHR_MODE` in `State.reset`: the normative default (R7; log entry 4). -/
def defaultShrMode : ShrMode := .logical

/-- `LATENCY`, OPEN: a natural number on which no rule depends (R7; 70_reset_and_hazards.md R205).
It has no body, so nothing can rest on its value; the model is untimed (log entry 6). -/
opaque latency : Nat

end Config
end Sys2Proof
end

