-- ==== Sys2Proof/Word.lean ====
section
/-! DEFINITION. The word types: limbs, limb stores and their value (00_scope.md R8, R9, R13). -/

namespace Sys2Proof

/-- One 64-bit limb (R6, R9). -/
abbrev Limb := BitVec 64

/-- One byte of a host's operand image (20_memory.md R43). -/
abbrev Byte := BitVec 8

/-- A scalar result, the width of `Q` (R7 `QW`). -/
abbrev Scalar := BitVec 32

/-- A limb store (R9): four unsigned 64-bit words in increasing significance. The source's names
are `lo1 = w0`, `lo2 = w1`, `hi1 = w2`, `hi2 = w3`. Every combination of words is a value (R21). -/
structure LimbStore where
  w0 : Limb
  w1 : Limb
  w2 : Limb
  w3 : Limb
  deriving DecidableEq, Repr

/-- `val(L)` (R9), a natural number below `2^256`. -/
def LimbStore.val (L : LimbStore) : Nat :=
  L.w0.toNat + L.w1.toNat * 2 ^ 64 + L.w2.toNat * 2 ^ 128 + L.w3.toNat * 2 ^ 192

/-- `lstore(v)` (R9): limb `i` is `(v div 2^(64 i)) mod 2^64`. -/
def lstore (v : Nat) : LimbStore where
  w0 := BitVec.ofNat 64 v
  w1 := BitVec.ofNat 64 (v / 2 ^ 64)
  w2 := BitVec.ofNat 64 (v / 2 ^ 128)
  w3 := BitVec.ofNat 64 (v / 2 ^ 192)

/-- `L.w[i]` (R9) by number; there is no limb above 3, and it reads 0 there. -/
def LimbStore.w (L : LimbStore) : Nat → Limb
  | 0 => L.w0
  | 1 => L.w1
  | 2 => L.w2
  | 3 => L.w3
  | _ => 0

/-- Bit `k` of a value is bit `k mod 64` of limb `floor(k / 64)` (R8). -/
def LimbStore.bit (L : LimbStore) (k : Nat) : Bool :=
  (L.w (k / 64)).getLsbD (k % 64)

/-- `Zero` (R13). -/
def LimbStore.zero : LimbStore := ⟨0, 0, 0, 0⟩

/-- `One` (R13). -/
def LimbStore.one : LimbStore := ⟨1, 0, 0, 0⟩

/-- `Max` (R13): every limb all ones. -/
def LimbStore.max : LimbStore :=
  ⟨0xFFFFFFFFFFFFFFFF, 0xFFFFFFFFFFFFFFFF, 0xFFFFFFFFFFFFFFFF, 0xFFFFFFFFFFFFFFFF⟩

end Sys2Proof
end

