-- ==== Sys2Proof/Syntax.lean ====
section
/-! DEFINITION. The instructions (30_encoding.md R63), the transaction that carries one (R60), and
the abstract syntax of an assembler line (R66, R68). -/

namespace Sys2Proof

/-- One constructor per row of the opcode table, named as the row's mnemonic (R63). Its arguments
are the transaction inputs the opcode reads (R61); inputs it does not read are no part of it. -/
inductive Instr where
  | add (a b : LimbStore)
  | sub (a b : LimbStore)
  | neg (a : LimbStore)
  | pos (a : LimbStore)
  | and (a b : LimbStore)
  | or (a b : LimbStore)
  | xor (a b : LimbStore)
  | not (a : LimbStore)
  | shr (a : LimbStore) (shamt : BitVec 32)
  | eq (a b : LimbStore)
  | ne (a b : LimbStore)
  | lt (a b : LimbStore)
  | le (a b : LimbStore)
  | gt (a b : LimbStore)
  | ge (a b : LimbStore)
  | popcnt (a : LimbStore)
  | clz (a : LimbStore)
  | ctz (a : LimbStore)
  deriving DecidableEq, Repr

/-- The four inputs of one transaction (10_state.md R25): the opcode, two limb stores, and the
signed 32-bit two's-complement shift amount. -/
structure Transaction where
  OP : BitVec 8
  A : LimbStore
  B : LimbStore
  SHAMT : BitVec 32
  deriving DecidableEq, Repr

/-- `FAM = OP[7:4]` (R60). -/
def familyOf (op : BitVec 8) : BitVec 4 := op.extractLsb' 4 4

/-- `FN = OP[3:0]` (R60). -/
def functionOf (op : BitVec 8) : BitVec 4 := op.extractLsb' 0 4

/-- The `FAM` field of a transaction's opcode (R60). -/
def Transaction.fam (t : Transaction) : BitVec 4 := familyOf t.OP

/-- The `FN` field of a transaction's opcode (R60). -/
def Transaction.fn (t : Transaction) : BitVec 4 := functionOf t.OP

/-- A value operand of an assembler line (R66): a decimal or `0x` number, a literal written as four
16-digit limbs most significant first (00_scope.md R14), or a host variable holding a limb store. -/
inductive ValueArg where
  | number (n : Nat)
  | limbs (w3 w2 w1 w0 : Limb)
  | var (v : LimbStore)
  deriving DecidableEq, Repr

/-- A shift amount of an assembler line (R66): a signed decimal literal, a `0x` literal, or a host
variable holding a 32-bit value. -/
inductive AmountArg where
  | decimal (n : Int)
  | hex (n : Nat)
  | var (v : BitVec 32)
  deriving DecidableEq, Repr

/-- The mnemonics with the two-operand value form (R66). -/
inductive TwoOperand where
  | add | sub | and | or | xor | eq | ne | lt | le | gt | ge
  deriving DecidableEq, Repr

/-- The mnemonics with the one-operand form (R66), the pseudo-instructions of R68 among them. -/
inductive OneOperand where
  | neg | pos | not | popcnt | clz | ctz
  | bool | iszero | mov | complement
  deriving DecidableEq, Repr

/-- One assembler line (R66): a mnemonic with its operands. -/
inductive AsmLine where
  | two (m : TwoOperand) (a b : ValueArg)
  | one (m : OneOperand) (a : ValueArg)
  | shift (a : ValueArg) (n : AmountArg)
  deriving DecidableEq, Repr

end Sys2Proof
end

