-- ==== Sys2Proof/WellFormed.lean ====
section
/-! DEFINITION. What well-formed syntax is. An `Instr` has no ill-formed term: every bit pattern of
its operands is a value (10_state.md R21) and no operand makes an operation fail (60_exceptions.md
R181). A transaction is well formed when its opcode is assigned; an assembler line, when its
literals are in range. -/

namespace Sys2Proof

/-- The opcode is assigned, read off the ranges of 30_encoding.md R64: `FN` is below the number of
functions of its family, and the family is one of the five. -/
def opcodeAssigned (op : BitVec 8) : Bool :=
  match (familyOf op).toNat with
  | 0 => decide ((functionOf op).toNat < 4)
  | 1 => decide ((functionOf op).toNat < 4)
  | 2 => decide ((functionOf op).toNat < 1)
  | 3 => decide ((functionOf op).toNat < 6)
  | 4 => decide ((functionOf op).toNat < 3)
  | _ => false

/-- A transaction is well formed when its opcode is assigned; its other inputs are always values. -/
def Transaction.wf (t : Transaction) : Bool := opcodeAssigned t.OP

/-- A number is below `2^256` (R66). -/
def ValueArg.wf : ValueArg → Bool
  | .number n => decide (n < 2 ^ Config.valueWidth)
  | .limbs _ _ _ _ => true
  | .var _ => true

/-- A literal fits in 32 bits (R66): a decimal one as a signed number, a `0x` one as a bit pattern
(DEDUCED, log entry 8). -/
def AmountArg.wf : AmountArg → Bool
  | .decimal n => decide (-2 ^ 31 ≤ n) && decide (n < 2 ^ 31)
  | .hex n => decide (n < 2 ^ 32)
  | .var _ => true

/-- Every literal of the line is in range (R66). -/
def AsmLine.wf : AsmLine → Bool
  | .two _ a b => a.wf && b.wf
  | .one _ a => a.wf
  | .shift a n => a.wf && n.wf

end Sys2Proof
end

