-- ==== Sys2Proof/Decode.lean ====
section
/-! DEFINITION. The decoder and the encoder (30_encoding.md R60, R61, R63, R64). -/

namespace Sys2Proof

/-- What the decoder reads from a transaction: an instruction, or the exception `IllegalOp(op)`
(00_scope.md R10; 60_exceptions.md R180). -/
inductive Decoded where
  | instr (i : Instr)
  | illegalOp (op : BitVec 8)
  deriving DecidableEq, Repr

/-- The decoder (R63): a full 8-bit compare with each row's opcode; it takes from the inputs those
the opcode reads (R61). Total: every opcode of no row is illegal (R64, R65). -/
def decode (t : Transaction) : Decoded :=
  match t.OP with
  | 0x00#8 => .instr (.add t.A t.B)
  | 0x01#8 => .instr (.sub t.A t.B)
  | 0x02#8 => .instr (.neg t.A)
  | 0x03#8 => .instr (.pos t.A)
  | 0x10#8 => .instr (.and t.A t.B)
  | 0x11#8 => .instr (.or t.A t.B)
  | 0x12#8 => .instr (.xor t.A t.B)
  | 0x13#8 => .instr (.not t.A)
  | 0x20#8 => .instr (.shr t.A t.SHAMT)
  | 0x30#8 => .instr (.eq t.A t.B)
  | 0x31#8 => .instr (.ne t.A t.B)
  | 0x32#8 => .instr (.lt t.A t.B)
  | 0x33#8 => .instr (.le t.A t.B)
  | 0x34#8 => .instr (.gt t.A t.B)
  | 0x35#8 => .instr (.ge t.A t.B)
  | 0x40#8 => .instr (.popcnt t.A)
  | 0x41#8 => .instr (.clz t.A)
  | 0x42#8 => .instr (.ctz t.A)
  | op => .illegalOp op

/-- `OP` from its two fields, `{FAM, FN}` (R60). -/
def opcodeOf (fam fn : BitVec 4) : BitVec 8 := fam ++ fn

/-- The encoder, from the FAM and FN columns of R63. An input the opcode does not use is passed
as 0 (R61; 95_test_vectors.md section 3). -/
def encode : Instr → Transaction
  | .add a b => ⟨opcodeOf 0 0, a, b, 0⟩
  | .sub a b => ⟨opcodeOf 0 1, a, b, 0⟩
  | .neg a => ⟨opcodeOf 0 2, a, .zero, 0⟩
  | .pos a => ⟨opcodeOf 0 3, a, .zero, 0⟩
  | .and a b => ⟨opcodeOf 1 0, a, b, 0⟩
  | .or a b => ⟨opcodeOf 1 1, a, b, 0⟩
  | .xor a b => ⟨opcodeOf 1 2, a, b, 0⟩
  | .not a => ⟨opcodeOf 1 3, a, .zero, 0⟩
  | .shr a n => ⟨opcodeOf 2 0, a, .zero, n⟩
  | .eq a b => ⟨opcodeOf 3 0, a, b, 0⟩
  | .ne a b => ⟨opcodeOf 3 1, a, b, 0⟩
  | .lt a b => ⟨opcodeOf 3 2, a, b, 0⟩
  | .le a b => ⟨opcodeOf 3 3, a, b, 0⟩
  | .gt a b => ⟨opcodeOf 3 4, a, b, 0⟩
  | .ge a b => ⟨opcodeOf 3 5, a, b, 0⟩
  | .popcnt a => ⟨opcodeOf 4 0, a, .zero, 0⟩
  | .clz a => ⟨opcodeOf 4 1, a, .zero, 0⟩
  | .ctz a => ⟨opcodeOf 4 2, a, .zero, 0⟩

/-- The operand-use table of R61, by opcode: does the transaction's opcode read `B`? Every assigned
opcode reads `A`. -/
def Transaction.readsB (t : Transaction) : Bool :=
  match t.OP with
  | 0x00#8 | 0x01#8 | 0x10#8 | 0x11#8 | 0x12#8 => true
  | 0x30#8 | 0x31#8 | 0x32#8 | 0x33#8 | 0x34#8 | 0x35#8 => true
  | _ => false

/-- The operand-use table of R61: does the transaction's opcode read `SHAMT`? Only SHR does. -/
def Transaction.readsShamt (t : Transaction) : Bool := t.OP == 0x20#8

/-- The transaction with every input its opcode does not read passed as 0 (R61): the
form the encoder gives. -/
def Transaction.dropUnused (t : Transaction) : Transaction where
  OP := t.OP
  A := t.A
  B := if t.readsB then t.B else .zero
  SHAMT := if t.readsShamt then t.SHAMT else 0

/-- The transaction that a table word stands for: its opcode, with all other inputs 0. -/
def tableTransaction (w : Nat) : Transaction := ⟨BitVec.ofNat 8 w, .zero, .zero, 0⟩

/-- The instruction the decoder reads from a table word of 8 bits (R60: there is one command format,
of 8 bits), all other inputs 0. A word of another width is no command. -/
def decodeTableWord (nbits w : Nat) : Option Instr :=
  if nbits = 8 then
    match decode (tableTransaction w) with
    | .instr i => some i
    | .illegalOp _ => none
  else none

end Sys2Proof
end

