-- ==== Sys2Proof/Machine/Flags.lean ====
section
/-! DEFINITION. The signals between limbs: carries, borrows and the comparator's decisions. The
block has no architectural flag; none of these survives a transaction (10_state.md R28, R29). -/

namespace Sys2Proof.Machine

/-- One limb of a sum or difference with the carry or borrow into the next limb. -/
structure LimbCarry where
  limb : Limb
  carry : Nat
  deriving DecidableEq, Repr

/-- One step of the carry chain (40_arith.md R81): `t = a + b + c` exactly, then `t mod 2^64` and
`t div 2^64`. -/
def addLimb (a b : Limb) (c : Nat) : LimbCarry :=
  let t := a.toNat + b.toNat + c
  ⟨BitVec.ofNat 64 t, t / 2 ^ 64⟩

/-- One step of the borrow chain (R82): `t = a - b - c` exactly; below 0, `2^64` is borrowed. -/
def subLimb (a b : Limb) (c : Nat) : LimbCarry :=
  let t : Int := (a.toNat : Int) - b.toNat - c
  if t < 0 then ⟨BitVec.ofInt 64 (t + 2 ^ 64), 1⟩ else ⟨BitVec.ofInt 64 t, 0⟩

/-- The comparator's scan (43_compare.md R141): the first unequal pair decides, unsigned; no unequal
pair means neither is below the other. -/
def scanLt : List (Limb × Limb) → Bool
  | [] => false
  | (x, y) :: rest => if x ≠ y then decide (x.toNat < y.toNat) else scanLt rest

end Sys2Proof.Machine
end

