-- ==== Sys2Proof/Machine/State.lean ====
section
/-! DEFINITION. The state as plain data, its reset value, and the outcome's reason types. -/

namespace Sys2Proof.Machine

/-- `ST`, the status of the last transaction (10_state.md R24). The reserved value 3 is never
produced and is omitted (93_implementation_defined.md I6). -/
inductive Status where
  /-- No transaction since reset. -/
  | none
  /-- The last transaction completed, and `R` and `Q` hold its results. -/
  | ok
  /-- The last transaction named an unassigned opcode; `R` and `Q` are unchanged. -/
  | illegal
  deriving DecidableEq, Repr

/-- What the host can do to the block: present a transaction (R25), apply reset between two of them
(70_reset_and_hazards.md R200), or read one of the three outputs (R22 to R24). -/
inductive HostEvent where
  | transact (t : Transaction)
  | reset
  | readR
  | readQ
  | readST
  deriving DecidableEq, Repr

/-- What one read of the host gave: the register's value (`ST` as its 2-bit value), or the record
that the read was the fault `UnwrittenRead`, which carries no value (R30; log entry 9). -/
inductive Reading where
  | R (v : LimbStore)
  | Q (v : Scalar)
  | ST (v : BitVec 2)
  | unwrittenRead
  deriving DecidableEq, Repr

/-- Why the machine stops: it never does. The spec's one exception, `IllegalOp`, sets `ST` and the
machine goes on (60_exceptions.md R180); its one fault, `UnwrittenRead`, is recorded and the machine
goes on (R30). So no one raises a stop, which is safe: every step answers a next state. -/
inductive Fault where
  deriving DecidableEq, Repr

/-- Why an instruction has no meaning. -/
inductive Refusal where
  /-- The instruction has no meaning in this model yet. Raised by an arm of `exec` alone; no arm
  raises it now. Safe. -/
  | notModelled (mnemonic : String)
  deriving DecidableEq, Repr

/-- The machine's state. The block's own state is `R`, `Q`, `ST` (R20) and the unwritten marking
(R30); the other fields are configuration or the host's side. -/
structure State where
  /-- The result limb store (R22). -/
  R : LimbStore
  /-- The scalar result (R23). -/
  Q : Scalar
  /-- The status of the last transaction (R24). -/
  ST : Status
  /-- Some transaction since reset has left `ST = OK`, so `R` and `Q` are written (R30). -/
  written : Bool
  /-- The parameter `SHR_MODE` of this build (R7); no step changes it (log entry 4). -/
  shrMode : ShrMode
  /-- The model's own: the host's requests not yet taken, oldest first (R25; log entry 2). -/
  inbox : List HostEvent
  /-- The model's own: what the host's reads gave, newest first, the faults `UnwrittenRead` recorded
  among them (R30; log entries 3 and 9). -/
  delivered : List Reading
  deriving DecidableEq, Repr

/-- The state of a build with a given `SHR_MODE` right after reset (R31): `ST` is `NONE` and `R` and
`Q` are unwritten. The zeros they hold are a DESIGN CHOICE (log entry 1), which no read delivers while
they are unwritten. -/
def State.resetFor (mode : ShrMode) : State where
  R := .zero
  Q := 0
  ST := .none
  written := false
  shrMode := mode
  inbox := []
  delivered := []

/-- The machine right after reset, in the normative build. -/
def State.reset : State := State.resetFor Config.defaultShrMode

end Sys2Proof.Machine
end

