-- ==== Sys2Proof/Machine/Ops.lean ====
section
/-! DEFINITION. The named operations on the registers: how a transaction ends, reset, and the host's
reads. The block has no memory (20_memory.md R40), no trap entry and no return from one
(60_exceptions.md R184, R185); the one exception is `State.raiseIllegalOp`. -/

namespace Sys2Proof.Machine

/-- The 2-bit value of `ST` (10_state.md R24). -/
def Status.code : Status → BitVec 2
  | .none => 0
  | .ok => 1
  | .illegal => 2

/-- A value operation ends: `R` is its result, `Q <- 0`, `ST <- OK` (R22, R23, R24). -/
def State.commitValue (s : State) (r : LimbStore) : State :=
  { s with R := r, Q := 0, ST := .ok, written := true }

/-- A scalar operation ends: `Q` is its result, `R <- Zero`, `ST <- OK` (R22, R23, R24). -/
def State.commitScalar (s : State) (q : Scalar) : State :=
  { s with R := .zero, Q := q, ST := .ok, written := true }

/-- `raise IllegalOp(op)` (60_exceptions.md R180): `ST <- ILLEGAL`; `R`, `Q` and whether they are
written stay, and nothing else is recorded, the opcode neither. -/
def State.raiseIllegalOp (s : State) (_op : BitVec 8) : State :=
  { s with ST := .illegal }

/-- Reset between two transactions (70_reset_and_hazards.md R200): the registers as in
`State.resetFor` of this build; the host's side is not the block's to reset. -/
def State.applyReset (s : State) : State :=
  { State.resetFor s.shrMode with inbox := s.inbox, delivered := s.delivered }

/-- The host's side after a request has been taken. -/
def State.withInbox (s : State) (es : List HostEvent) : State :=
  { s with inbox := es }

/-- The host presents one more request, taken before those already waiting. -/
def State.present (s : State) (e : HostEvent) : State :=
  s.withInbox (e :: s.inbox)

/-- A read gives the host a reading; it changes no register (20_memory.md R42). -/
def State.deliver (s : State) (x : Reading) : State :=
  { s with delivered := x :: s.delivered }

/-- The host reads `R` (R22). Unwritten, the fault `UnwrittenRead` is recorded, with no value (R30). -/
def State.hostReadR (s : State) : State :=
  s.deliver (if s.written then .R s.R else .unwrittenRead)

/-- The host reads `Q` (R23). Unwritten, the fault `UnwrittenRead` is recorded, with no value (R30). -/
def State.hostReadQ (s : State) : State :=
  s.deliver (if s.written then .Q s.Q else .unwrittenRead)

/-- The host reads `ST` (R24), which always holds a value. -/
def State.hostReadST (s : State) : State :=
  s.deliver (.ST s.ST.code)

end Sys2Proof.Machine
end

