-- ==== Sys2Proof/Machine/Arith.lean ====
section
/-! DEFINITION. The arithmetic family (40_arith.md R80 to R84). -/

namespace Sys2Proof.Machine

/-- ADD's result (R81): the carry chain from no carry-in; the carry out of bit 255 is discarded. -/
def addValue (a b : LimbStore) : LimbStore :=
  let t0 := addLimb a.w0 b.w0 0
  let t1 := addLimb a.w1 b.w1 t0.carry
  let t2 := addLimb a.w2 b.w2 t1.carry
  let t3 := addLimb a.w3 b.w3 t2.carry
  ⟨t0.limb, t1.limb, t2.limb, t3.limb⟩

/-- SUB's result (R82): the borrow chain from no borrow-in; the borrow out of bit 255 is discarded. -/
def subValue (a b : LimbStore) : LimbStore :=
  let t0 := subLimb a.w0 b.w0 0
  let t1 := subLimb a.w1 b.w1 t0.carry
  let t2 := subLimb a.w2 b.w2 t1.carry
  let t3 := subLimb a.w3 b.w3 t2.carry
  ⟨t0.limb, t1.limb, t2.limb, t3.limb⟩

/-- NEG's result (R83): complement every limb and add one, carrying limb by limb. -/
def negValue (a : LimbStore) : LimbStore :=
  let t0 := addLimb (~~~a.w0) 0 1
  let t1 := addLimb (~~~a.w1) 0 t0.carry
  let t2 := addLimb (~~~a.w2) 0 t1.carry
  let t3 := addLimb (~~~a.w3) 0 t2.carry
  ⟨t0.limb, t1.limb, t2.limb, t3.limb⟩

/-- POS's result (R84): the operand unchanged. -/
def posValue (a : LimbStore) : LimbStore := a

/-- `add` (R81). -/
def execAdd (a b : LimbStore) (s : State) : Host.Outcome State Fault Refusal :=
  .next (s.commitValue (addValue a b))

/-- `sub` (R82). -/
def execSub (a b : LimbStore) (s : State) : Host.Outcome State Fault Refusal :=
  .next (s.commitValue (subValue a b))

/-- `neg` (R83). -/
def execNeg (a : LimbStore) (s : State) : Host.Outcome State Fault Refusal :=
  .next (s.commitValue (negValue a))

/-- `pos` (R84). -/
def execPos (a : LimbStore) (s : State) : Host.Outcome State Fault Refusal :=
  .next (s.commitValue (posValue a))

end Sys2Proof.Machine
end

