-- ==== Sys2Proof/Machine/Prim.lean ====
section
/-! DEFINITION. The 64-bit primitives of 00_scope.md R11. -/

namespace Sys2Proof.Machine

/-- `shr64(x, n) = x div 2^n`, so 0 at `n = 64` (R11). -/
def shr64 (x : Limb) (n : Nat) : Limb := BitVec.ofNat 64 (x.toNat / 2 ^ n)

/-- `shl64(x, n) = (x * 2^n) mod 2^64`, so 0 at `n = 64` (R11). -/
def shl64 (x : Limb) (n : Nat) : Limb := BitVec.ofNat 64 (x.toNat * 2 ^ n)

/-- `pop64(x)`, the number of 1 bits (R11). -/
def pop64 (x : Limb) : Nat := (List.range 64).countP fun k => x.getLsbD k

/-- `clz64(x)`, the number of 0 bits above the most significant 1 bit; 64 when there is none (R11). -/
def clz64 (x : Limb) : Nat := ((List.range 64).takeWhile fun k => !x.getLsbD (63 - k)).length

/-- `ctz64(x)`, the number of 0 bits below the least significant 1 bit; 64 when there is none (R11). -/
def ctz64 (x : Limb) : Nat := ((List.range 64).takeWhile fun k => !x.getLsbD k).length

end Sys2Proof.Machine
end

