-- ==== Sys2Proof/Machine/BitCount.lean ====
section
/-! DEFINITION. The bit-count family (44_bitcount.md R160 to R163). -/

namespace Sys2Proof.Machine

/-- POPCNT's count (R161): the sum over the four limbs. -/
def popcntCount (a : LimbStore) : Nat := pop64 a.w0 + pop64 a.w1 + pop64 a.w2 + pop64 a.w3

/-- CLZ's count (R162): the first nonzero limb from the most significant, with its offset; 256 for
`Zero`. -/
def clzCount (a : LimbStore) : Nat :=
  if a.w3 ≠ 0 then clz64 a.w3
  else if a.w2 ≠ 0 then 64 + clz64 a.w2
  else if a.w1 ≠ 0 then 128 + clz64 a.w1
  else 192 + clz64 a.w0

/-- CTZ's count (R163): the first nonzero limb from the least significant, with its offset; 256 for
`Zero`. -/
def ctzCount (a : LimbStore) : Nat :=
  if a.w0 ≠ 0 then ctz64 a.w0
  else if a.w1 ≠ 0 then 64 + ctz64 a.w1
  else if a.w2 ≠ 0 then 128 + ctz64 a.w2
  else 192 + ctz64 a.w3

/-- `zext_32` of a count (R160). -/
def countScalar (n : Nat) : Scalar := BitVec.ofNat 32 n

/-- `popcnt` (R161). -/
def execPopcnt (a : LimbStore) (s : State) : Host.Outcome State Fault Refusal :=
  .next (s.commitScalar (countScalar (popcntCount a)))

/-- `clz` (R162). -/
def execClz (a : LimbStore) (s : State) : Host.Outcome State Fault Refusal :=
  .next (s.commitScalar (countScalar (clzCount a)))

/-- `ctz` (R163). -/
def execCtz (a : LimbStore) (s : State) : Host.Outcome State Fault Refusal :=
  .next (s.commitScalar (countScalar (ctzCount a)))

end Sys2Proof.Machine
end

