-- ==== Sys2Proof/Machine/Compare.lean ====
section
/-! DEFINITION. The compare family (43_compare.md R140 to R147). -/

namespace Sys2Proof.Machine

/-- `EQ(A, B)` (R141): all four limb pairs are equal. -/
def eqTest (a b : LimbStore) : Bool :=
  a.w0 == b.w0 && a.w1 == b.w1 && a.w2 == b.w2 && a.w3 == b.w3

/-- `LT(A, B)` (R141): most significant limb first. -/
def ltTest (a b : LimbStore) : Bool :=
  scanLt [(a.w3, b.w3), (a.w2, b.w2), (a.w1, b.w1), (a.w0, b.w0)]

/-- `NE(A, B) = not EQ(A, B)` (R141). -/
def neTest (a b : LimbStore) : Bool := !eqTest a b

/-- `GT(A, B) = LT(B, A)` (R141). -/
def gtTest (a b : LimbStore) : Bool := ltTest b a

/-- `LE(A, B) = not LT(B, A)` (R141). -/
def leTest (a b : LimbStore) : Bool := !ltTest b a

/-- `GE(A, B) = not LT(A, B)` (R141). -/
def geTest (a b : LimbStore) : Bool := !ltTest a b

/-- `zext_32` of a truth value (R140). -/
def truthScalar (p : Bool) : Scalar := if p then 1 else 0

/-- `eq` (R142). -/
def execEq (a b : LimbStore) (s : State) : Host.Outcome State Fault Refusal :=
  .next (s.commitScalar (truthScalar (eqTest a b)))

/-- `ne` (R143). -/
def execNe (a b : LimbStore) (s : State) : Host.Outcome State Fault Refusal :=
  .next (s.commitScalar (truthScalar (neTest a b)))

/-- `lt` (R144). -/
def execLt (a b : LimbStore) (s : State) : Host.Outcome State Fault Refusal :=
  .next (s.commitScalar (truthScalar (ltTest a b)))

/-- `le` (R145). -/
def execLe (a b : LimbStore) (s : State) : Host.Outcome State Fault Refusal :=
  .next (s.commitScalar (truthScalar (leTest a b)))

/-- `gt` (R146). -/
def execGt (a b : LimbStore) (s : State) : Host.Outcome State Fault Refusal :=
  .next (s.commitScalar (truthScalar (gtTest a b)))

/-- `ge` (R147). -/
def execGe (a b : LimbStore) (s : State) : Host.Outcome State Fault Refusal :=
  .next (s.commitScalar (truthScalar (geTest a b)))

end Sys2Proof.Machine
end

