-- ==== Sys2Proof/Machine/Logic.lean ====
section
/-! DEFINITION. The limb-wise logic family (41_logic.md R100 to R104): no signal passes between
limbs. -/

namespace Sys2Proof.Machine

/-- A two-operand gate on each limb pair (R100). -/
def limbwise (gate : Limb → Limb → Limb) (a b : LimbStore) : LimbStore :=
  ⟨gate a.w0 b.w0, gate a.w1 b.w1, gate a.w2 b.w2, gate a.w3 b.w3⟩

/-- AND's result (R101). -/
def andValue (a b : LimbStore) : LimbStore := limbwise (· &&& ·) a b

/-- OR's result (R102). -/
def orValue (a b : LimbStore) : LimbStore := limbwise (· ||| ·) a b

/-- XOR's result (R103). -/
def xorValue (a b : LimbStore) : LimbStore := limbwise (· ^^^ ·) a b

/-- NOT's result (R104): a complement of each limb. -/
def notValue (a : LimbStore) : LimbStore := ⟨~~~a.w0, ~~~a.w1, ~~~a.w2, ~~~a.w3⟩

/-- `and` (R101). -/
def execAnd (a b : LimbStore) (s : State) : Host.Outcome State Fault Refusal :=
  .next (s.commitValue (andValue a b))

/-- `or` (R102). -/
def execOr (a b : LimbStore) (s : State) : Host.Outcome State Fault Refusal :=
  .next (s.commitValue (orValue a b))

/-- `xor` (R103). -/
def execXor (a b : LimbStore) (s : State) : Host.Outcome State Fault Refusal :=
  .next (s.commitValue (xorValue a b))

/-- `not` (R104). -/
def execNot (a : LimbStore) (s : State) : Host.Outcome State Fault Refusal :=
  .next (s.commitValue (notValue a))

end Sys2Proof.Machine
end

