-- ==== Sys2Proof/Machine/Operands.lean ====
section
/-! DEFINITION. Operand assembly (30_encoding.md R62): the only operand that is not used as it
arrives is the shift amount. -/

namespace Sys2Proof.Machine

/-- `s = zext_8(SHAMT[7:0])`, in `[0, 255]` (R62): bits 31 to 8 are ignored, so an amount of 256 or
more wraps. -/
def shiftAmount (shamt : BitVec 32) : Nat := (shamt.extractLsb' 0 8).toNat

end Sys2Proof.Machine
end

