-- ==== Sys2Proof/Machine/Shift.lean ====
section
/-! DEFINITION. The shift family (42_shift.md R120 to R122). -/

namespace Sys2Proof.Machine

/-- Two adjacent limbs shifted right by `n` into the lower one: `shr64(lo, n) | shl64(hi, 64 - n)`. -/
def funnel (lo hi : Limb) (n : Nat) : Limb := shr64 lo n ||| shl64 hi (64 - n)

/-- Range 1 of R121, which R122 shares: `1 <= s <= 64`. -/
def shrRange1 (a : LimbStore) (s : Nat) : LimbStore :=
  ⟨funnel a.w0 a.w1 s, funnel a.w1 a.w2 s, funnel a.w2 a.w3 s, shr64 a.w3 s⟩

/-- SHR's result under `SHR_MODE = LOGICAL` (R121), by limb-boundary ranges. -/
def shrLogical (a : LimbStore) (s : Nat) : LimbStore :=
  if s = 0 then a
  else if s ≤ 64 then shrRange1 a s
  else if s ≤ 128 then
    ⟨funnel a.w1 a.w2 (s - 64), funnel a.w2 a.w3 (s - 64), shr64 a.w3 (s - 64), 0⟩
  else if s ≤ 192 then ⟨funnel a.w2 a.w3 (s - 128), shr64 a.w3 (s - 128), 0, 0⟩
  else ⟨shr64 a.w3 (s - 192), 0, 0, 0⟩

/-- SHR's result under `SHR_MODE = DOC_LITERAL` (R122): the source's literal formulas. -/
def shrDocLiteral (a : LimbStore) (s : Nat) : LimbStore :=
  if s = 0 then a
  else if s ≤ 64 then shrRange1 a s
  else if s ≤ 128 then ⟨a.w1, a.w2, shr64 a.w3 (128 - s), 0⟩
  else if s ≤ 192 then ⟨a.w2, shr64 a.w3 (192 - s), 0, 0⟩
  else ⟨shr64 a.w3 (256 - s), 0, 0, 0⟩

/-- SHR's result in a build with a given `SHR_MODE` (R120). -/
def shrValue (mode : ShrMode) (a : LimbStore) (shamt : BitVec 32) : LimbStore :=
  match mode with
  | .logical => shrLogical a (shiftAmount shamt)
  | .docLiteral => shrDocLiteral a (shiftAmount shamt)

/-- `shr` (R121, R122). -/
def execShr (a : LimbStore) (shamt : BitVec 32) (s : State) : Host.Outcome State Fault Refusal :=
  .next (s.commitValue (shrValue s.shrMode a shamt))

end Sys2Proof.Machine
end

