-- ==== Sys2Proof/Machine/Transact.lean ====
section
/-! DEFINITION. One transaction, and one request of the host. -/

namespace Sys2Proof.Machine

/-- One transaction with its inputs as parameters (10_state.md R25; 70_reset_and_hazards.md R204):
the opcode is decoded before anything is computed or written; an assigned one runs its instruction,
any other raises IllegalOp (60_exceptions.md R180, R183). -/
def transact (t : Transaction) (s : State) : Host.Outcome State Fault Refusal :=
  match decode t with
  | .instr i => exec i s
  | .illegalOp op => .next (s.raiseIllegalOp op)

/-- One request of the host: a transaction, a reset, or a read of an output (10_state.md R33). -/
def runEvent (e : HostEvent) (s : State) : Host.Outcome State Fault Refusal :=
  match e with
  | .transact t => transact t s
  | .reset => .next s.applyReset
  | .readR => .next s.hostReadR
  | .readQ => .next s.hostReadQ
  | .readST => .next s.hostReadST

/-- The block takes the oldest waiting request; with none waiting it is idle and every register holds
its value (70_reset_and_hazards.md R206; 60_exceptions.md R189). -/
def takeRequest (s : State) : Host.Outcome State Fault Refusal :=
  match s.inbox with
  | [] => .next s
  | e :: rest => runEvent e (s.withInbox rest)

/-- A table word presented as the next transaction, all other inputs 0 (log entry 7). -/
def presentTableWord (s : State) (w : Nat) : State :=
  s.present (.transact (tableTransaction w))

end Sys2Proof.Machine
end

