-- ==== Sys2Proof/Machine/Step.lean ====
section
/-! DEFINITION. The step of the machine and the placing of its next instruction. -/

namespace Sys2Proof.Machine

/-- One step: the block takes the host's oldest waiting request, or is idle (20_memory.md R49). -/
def step (s : State) : Host.Outcome State Fault Refusal := takeRequest s

/-- The block fetches nothing (10_state.md R27): its next instruction is the next transaction the
host presents. So the table word is presented as the request that the very next step takes
(log entry 7). A command has 8 bits (R60), so there is nothing above `nbits` to lay out. -/
def State.withFetchWord (s : State) (_nbits w : Nat) : State := presentTableWord s w

end Sys2Proof.Machine
end

