-- ==== Sys2Proof/Machine/Assembler.lean ====
section
/-! DEFINITION. The assembler (30_encoding.md R66, R68): what a line stands for. -/

namespace Sys2Proof.Machine

/-- The mnemonic of an instruction, lowercase (R63, R66). -/
def mnemonicOf : Instr → String
  | .add _ _ => "add"
  | .sub _ _ => "sub"
  | .neg _ => "neg"
  | .pos _ => "pos"
  | .and _ _ => "and"
  | .or _ _ => "or"
  | .xor _ _ => "xor"
  | .not _ => "not"
  | .shr _ _ => "shr"
  | .eq _ _ => "eq"
  | .ne _ _ => "ne"
  | .lt _ _ => "lt"
  | .le _ _ => "le"
  | .gt _ _ => "gt"
  | .ge _ _ => "ge"
  | .popcnt _ => "popcnt"
  | .clz _ => "clz"
  | .ctz _ => "ctz"

/-- The limb store a value operand stands for (R66; 00_scope.md R14). -/
def valueOf : ValueArg → LimbStore
  | .number n => lstore n
  | .limbs w3 w2 w1 w0 => ⟨w0, w1, w2, w3⟩
  | .var v => v

/-- The 32-bit amount a shift operand stands for, two's complement (R66; R62). -/
def amountOf : AmountArg → BitVec 32
  | .decimal n => BitVec.ofInt 32 n
  | .hex n => BitVec.ofNat 32 n
  | .var v => v

/-- The instruction of a two-operand line: `a` goes to `A`, `b` to `B` (R66). -/
def twoOperandInstr (m : TwoOperand) (a b : LimbStore) : Instr :=
  match m with
  | .add => .add a b
  | .sub => .sub a b
  | .and => .and a b
  | .or => .or a b
  | .xor => .xor a b
  | .eq => .eq a b
  | .ne => .ne a b
  | .lt => .lt a b
  | .le => .le a b
  | .gt => .gt a b
  | .ge => .ge a b

/-- The instruction of a one-operand line (R66); a pseudo-instruction's is its expansion (R68). -/
def oneOperandInstr (m : OneOperand) (a : LimbStore) : Instr :=
  match m with
  | .neg => .neg a
  | .pos => .pos a
  | .not => .not a
  | .popcnt => .popcnt a
  | .clz => .clz a
  | .ctz => .ctz a
  | .bool => .ne a .zero
  | .iszero => .eq a .zero
  | .mov => .pos a
  | .complement => .not a

/-- The one instruction a line stands for; a line with a literal out of range is refused (R66). -/
def assemble (l : AsmLine) : Option Instr :=
  if l.wf then
    match l with
    | .two m a b => some (twoOperandInstr m (valueOf a) (valueOf b))
    | .one m a => some (oneOperandInstr m (valueOf a))
    | .shift a n => some (.shr (valueOf a) (amountOf n))
  else none

/-- The one transaction a line is presented as (R66, R68). -/
def assembleTransaction (l : AsmLine) : Option Transaction := (assemble l).map encode

end Sys2Proof.Machine
end

