-- ==== Sys2Proof/Machine/ByteImage.lean ====
section
/-! DEFINITION. The host's 32-byte operand images (20_memory.md R43 to R45). The block never sees
bytes; these are pure functions on the host's side. -/

namespace Sys2Proof.Machine

/-- The byte order of one transfer, chosen by the host (R45); a transfer is one image (log entry 14). -/
inductive Endian where
  | little
  | big
  deriving DecidableEq, Repr

/-- `v[8j+7 : 8j]`: bits `8*(j mod 8)+7 : 8*(j mod 8)` of limb `j div 8` (R43). -/
def byteOf (v : LimbStore) (j : Nat) : Byte := (v.w (j / 8)).extractLsb' (8 * (j % 8)) 8

/-- The 32-byte image of a value (R43, R44): byte `j` is `v[8j+7 : 8j]` in the little-endian one and
`v[255-8j : 248-8j]` in the big-endian one. -/
def encodeImage (e : Endian) (v : LimbStore) : List Byte :=
  match e with
  | .little => (List.range 32).map fun j => byteOf v j
  | .big => (List.range 32).map fun j => byteOf v (31 - j)

/-- The number whose bytes are given, least significant first. -/
def natOfBytes : List Byte → Nat
  | [] => 0
  | b :: bs => b.toNat + 256 * natOfBytes bs

/-- The value of an operand image (R44, R45). An image is exactly 32 bytes; another length is
refused (90_conflicts.md C5; 93_implementation_defined.md I14, I15). -/
def decodeImage (e : Endian) (bs : List Byte) : Option LimbStore :=
  if bs.length = 32 then
    match e with
    | .little => some (lstore (natOfBytes bs))
    | .big => some (lstore (natOfBytes bs.reverse))
  else none

/-- A transaction whose operands the host holds as images (R43). "The host chooses LE or BE per
transfer" (R45), and the spec leaves open whether a transfer is one image or all of a transaction's:
here each image is a transfer with a byte order of its own (DESIGN CHOICE, log entry 14), so the
other reading is the case of two equal byte orders. -/
def transactionOfImages (op : BitVec 8) (eA eB : Endian) (a b : List Byte) (shamt : BitVec 32) :
    Option Transaction := do
  let A ← decodeImage eA a
  let B ← decodeImage eB b
  return ⟨op, A, B, shamt⟩

end Sys2Proof.Machine
end

