-- ==== Sys2Proof/Safety.lean ====
section
/-! DEFINITION. What a legal state and a safe run are, in the terms the statements use. -/

namespace Sys2Proof.Machine

/-- The invariant of the registers. The status agrees with the unwritten marking (10_state.md R24,
R30), and once they are written, one of `R` and `Q` is the zero its family fills in and `Q` is at
most 256 (R22, R23). -/
structure State.Inv (s : State) : Prop where
  written_of_ok : s.ST = .ok → s.written = true
  unwritten_of_none : s.ST = .none → s.written = false
  one_is_zero : s.written = true → s.R = .zero ∨ s.Q = 0
  scalar_bound : s.written = true → s.Q.toNat ≤ 256

/-- Two states that the host cannot tell apart by reading: they are equal but for the contents of
`R` and `Q` while these are unwritten (R30). -/
structure State.Alike (s t : State) : Prop where
  status : s.ST = t.ST
  marking : s.written = t.written
  mode : s.shrMode = t.shrMode
  requests : s.inbox = t.inbox
  readings : s.delivered = t.delivered
  value : s.written = true → s.R = t.R
  scalar : s.written = true → s.Q = t.Q

/-- The request is a read of an output. -/
def HostEvent.isRead : HostEvent → Bool
  | .readR | .readQ | .readST => true
  | .transact _ | .reset => false

/-- What stays the same when a transaction runs: the build's parameter and the host's side. -/
structure SameHostSide (s t : State) : Prop where
  mode : t.shrMode = s.shrMode
  requests : t.inbox = s.inbox
  readings : t.delivered = s.delivered

/-- A sum added tier by tier from the low end, the tiers' widths given: each tier's carry goes into the
next, and the last carry is discarded (40_arith.md R86). -/
def tieredSum : List Nat → Nat → Nat → Nat → Nat
  | [], _, _, _ => 0
  | w :: ws, a, b, carry =>
    let t := a % 2 ^ w + b % 2 ^ w + carry
    t % 2 ^ w + 2 ^ w * tieredSum ws (a / 2 ^ w) (b / 2 ^ w) (t / 2 ^ w)

/-- A difference taken tier by tier from the low end: a tier that falls below zero borrows from the
next, and the last borrow is discarded (R86). -/
def tieredDifference : List Nat → Nat → Nat → Nat → Nat
  | [], _, _, _ => 0
  | w :: ws, a, b, borrow =>
    if a % 2 ^ w < b % 2 ^ w + borrow then
      2 ^ w + a % 2 ^ w - (b % 2 ^ w + borrow) +
        2 ^ w * tieredDifference ws (a / 2 ^ w) (b / 2 ^ w) 1
    else
      a % 2 ^ w - (b % 2 ^ w + borrow) + 2 ^ w * tieredDifference ws (a / 2 ^ w) (b / 2 ^ w) 0

end Sys2Proof.Machine

/-- The limb store a value operand of an assembler line stands for (30_encoding.md R66; 00_scope.md
R14): a number stands for the store of that value, so one of `2^256` or more for none. -/
def Sys2Proof.ValueArg.Denotes (x : ValueArg) (a : LimbStore) : Prop :=
  match x with
  | .number v => a.val = v
  | .limbs w3 w2 w1 w0 => a.w3 = w3 ∧ a.w2 = w2 ∧ a.w1 = w1 ∧ a.w0 = w0
  | .var u => a = u

/-- The 32-bit amount a shift operand of an assembler line stands for (R66): a decimal literal for
the amount of that signed value, a `0x` literal for that bit pattern (log entry 8). -/
def Sys2Proof.AmountArg.Denotes (x : AmountArg) (m : BitVec 32) : Prop :=
  match x with
  | .decimal n => m.toInt = n
  | .hex n => m.toNat = n
  | .var u => m = u
end

