-- ==== Sys2Proof/Certificates/Slice0/Obligations.lean ====
section
/-! DEFINITION. The statements for the provers. -/

open Sys2Proof Sys2Proof.Machine

section Encoding

/-- The decoder and the encoder agree (R60, R61, R63, R64): every instruction is read back from its
encoding, with every operand at every value; a transaction decodes to an instruction exactly when
it is that instruction's encoding once the inputs its opcode does not read are dropped; and it
decodes to an instruction exactly when its FAM and FN lie in the assigned ranges. -/
def Obligations.DecodeEncodeAgree : Prop :=
  (∀ i : Instr, decode (encode i) = .instr i) ∧
  (∀ (t : Transaction) (i : Instr), decode t = .instr i ↔ t.dropUnused = encode i) ∧
  (∀ t : Transaction, t.wf = true ↔ ∃ i, decode t = .instr i)

/-- The opcode map of R63, one word of each family and the table's last row: each decodes to its
instruction with the inputs R61 marks, whatever the other inputs are. -/
def Obligations.SpecWordsDecode : Prop :=
  ∀ (A B : LimbStore) (n : BitVec 32),
    decode ⟨0b00000001, A, B, n⟩ = .instr (.sub A B) ∧
    decode ⟨0b00010011, A, B, n⟩ = .instr (.not A) ∧
    decode ⟨0b00100000, A, B, n⟩ = .instr (.shr A n) ∧
    decode ⟨0b00110101, A, B, n⟩ = .instr (.ge A B) ∧
    decode ⟨0b01000010, A, B, n⟩ = .instr (.ctz A)

/-- Illegal opcodes (R64, R180): the opcodes outside the table of R63 are the ranges R64 lists, 238
of them, and a transaction with one of them sets `ST` to ILLEGAL and changes nothing else. -/
def Obligations.UnassignedOpcodeIsIllegal : Prop :=
  let assigned : List (BitVec 8) :=
    [0x00, 0x01, 0x02, 0x03, 0x10, 0x11, 0x12, 0x13, 0x20,
     0x30, 0x31, 0x32, 0x33, 0x34, 0x35, 0x40, 0x41, 0x42]
  (∀ t : Transaction, t.OP ∉ assigned ↔
    (t.fam = 0 ∧ 4 ≤ t.fn.toNat) ∨ (t.fam = 1 ∧ 4 ≤ t.fn.toNat) ∨
    (t.fam = 2 ∧ 1 ≤ t.fn.toNat) ∨ (t.fam = 3 ∧ 6 ≤ t.fn.toNat) ∨
    (t.fam = 4 ∧ 3 ≤ t.fn.toNat) ∨ 5 ≤ t.fam.toNat) ∧
  ((List.range 256).countP fun w => decide (BitVec.ofNat 8 w ∉ assigned)) = 238 ∧
  (∀ (t : Transaction) (s : State), t.OP ∉ assigned →
    transact t s = .next { s with ST := .illegal })

/-- Operand use (R61): a transaction's outcome does not depend on an input its opcode is not marked
as reading, by the table's groups. -/
def Obligations.UnmarkedInputsHaveNoEffect : Prop :=
  ∀ (op : BitVec 8) (A B B' : LimbStore) (n n' : BitVec 32) (s : State),
    (op ∈ [0x00#8, 0x01#8, 0x10#8, 0x11#8, 0x12#8, 0x30#8, 0x31#8, 0x32#8, 0x33#8, 0x34#8, 0x35#8] →
      transact ⟨op, A, B, n⟩ s = transact ⟨op, A, B, n'⟩ s) ∧
    (op ∈ [0x02#8, 0x03#8, 0x13#8, 0x40#8, 0x41#8, 0x42#8] →
      transact ⟨op, A, B, n⟩ s = transact ⟨op, A, B', n'⟩ s) ∧
    (op = 0x20#8 → transact ⟨op, A, B, n⟩ s = transact ⟨op, A, B', n⟩ s)

end Encoding

section Values

/-- `val` and `lstore` are inverse bijections between the limb stores and the numbers below `2^256`
(R9). -/
def Obligations.ValAndLstoreInverse : Prop :=
  (∀ L : LimbStore, L.val < 2 ^ 256 ∧ lstore L.val = L) ∧
  (∀ v : Nat, v < 2 ^ 256 → (lstore v).val = v ∧
    ∀ i : Nat, i < 4 → ((lstore v).w i).toNat = (v / 2 ^ (64 * i)) % 2 ^ 64)

/-- Bit numbering (R8): bit `k` of a value, which has weight `2^k`, is bit `k mod 64` of limb
`floor(k / 64)`. -/
def Obligations.BitNumbering : Prop :=
  ∀ (L : LimbStore) (k : Nat), k < 256 →
    L.val.testBit k = (L.w (k / 64)).getLsbD (k % 64)

/-- The shift amount (R62): for any signed `SHAMT` it is `SHAMT mod 256` with the non-negative
residue, it lies in `[0, 255]`, and bits 31 to 8 are ignored; no other operation takes `SHAMT`. -/
def Obligations.ShiftAmountMod256 : Prop :=
  (∀ n : BitVec 32, shiftAmount n = (n.toInt % 256).toNat ∧ shiftAmount n ≤ 255) ∧
  (∀ n m : BitVec 32, n.extractLsb' 0 8 = m.extractLsb' 0 8 → shiftAmount n = shiftAmount m) ∧
  ([0, 256, 300, -1, -64, -256, 0x7FFFFFFF, -2 ^ 31].map fun n => shiftAmount (BitVec.ofInt 32 n)) =
    [0, 0, 44, 255, 192, 0, 255, 0] ∧
  (∀ (op : BitVec 8) (A B : LimbStore) (n m : BitVec 32), op ≠ 0x20 →
    decode ⟨op, A, B, n⟩ = decode ⟨op, A, B, m⟩)

end Values

section Arithmetic

/-- ADD (R81): opcode 0x00; `R` is `(val(A) + val(B)) mod 2^256`, `Q` is 0, `ST` is OK, and nothing
else changes. -/
def Obligations.AddIsSumModulo : Prop :=
  ∀ (A B : LimbStore) (n : BitVec 32) (s : State),
    decode ⟨0x00, A, B, n⟩ = .instr (.add A B) ∧
    exec (.add A B) s = .next { s with
      R := lstore ((A.val + B.val) % 2 ^ 256), Q := 0, ST := .ok, written := true }

/-- SUB (R82): opcode 0x01; `R` is the non-negative residue of `val(A) - val(B)` modulo `2^256`. -/
def Obligations.SubIsDifferenceModulo : Prop :=
  ∀ (A B : LimbStore) (n : BitVec 32) (s : State),
    decode ⟨0x01, A, B, n⟩ = .instr (.sub A B) ∧
    exec (.sub A B) s = .next { s with
      R := lstore (((A.val : Int) - B.val) % 2 ^ 256).toNat, Q := 0, ST := .ok, written := true }

/-- NEG (R83): opcode 0x02; `R` is `(2^256 - val(A)) mod 2^256`. -/
def Obligations.NegIsComplementPlusOne : Prop :=
  ∀ (A B : LimbStore) (n : BitVec 32) (s : State),
    decode ⟨0x02, A, B, n⟩ = .instr (.neg A) ∧
    exec (.neg A) s = .next { s with
      R := lstore ((2 ^ 256 - A.val) % 2 ^ 256), Q := 0, ST := .ok, written := true }

/-- POS (R84): opcode 0x03; `R` is `A`. -/
def Obligations.PosIsIdentity : Prop :=
  ∀ (A B : LimbStore) (n : BitVec 32) (s : State),
    decode ⟨0x03, A, B, n⟩ = .instr (.pos A) ∧
    exec (.pos A) s = .next { s with R := A, Q := 0, ST := .ok, written := true }

/-- The arithmetic laws (R85), about the results the four operations write to `R`. -/
def Obligations.ArithmeticLaws : Prop :=
  (∀ a, addValue a (negValue a) = .zero) ∧
  (∀ a b, subValue a b = addValue a (negValue b)) ∧
  addValue .one .max = .zero ∧
  (∀ a b, addValue a b = addValue b a) ∧
  (∀ a b c, addValue (addValue a b) c = addValue a (addValue b c)) ∧
  (∀ a, subValue a a = .zero) ∧
  (∀ a, negValue (negValue a) = a) ∧
  (∀ a, posValue a = a)

/-- The tiered structure cannot be observed (R86, which the spec derives from R81 and R82). Any
grouping into tiers, from the low end and with any widths that make up 256, with each tier's carry
or borrow passed to the next, gives the values ADD and SUB write; and, written out, so do two 128-bit
halves for ADD. -/
def Obligations.HalfAdditionsAgree : Prop :=
  (∀ (tiers : List Nat) (A B : LimbStore), tiers.sum = 256 →
    addValue A B = lstore (tieredSum tiers A.val B.val 0) ∧
    subValue A B = lstore (tieredDifference tiers A.val B.val 0)) ∧
  (∀ (A B : LimbStore) (lo hi : Nat),
    lo = (A.w0.toNat + A.w1.toNat * 2 ^ 64) + (B.w0.toNat + B.w1.toNat * 2 ^ 64) →
    hi = (A.w2.toNat + A.w3.toNat * 2 ^ 64) + (B.w2.toNat + B.w3.toNat * 2 ^ 64) →
      addValue A B = lstore (lo % 2 ^ 128 + (hi + lo / 2 ^ 128) % 2 ^ 128 * 2 ^ 128))

end Arithmetic

section Logic

/-- AND (R100, R101): opcode 0x10; limb by limb, which is bit by bit on the whole value. -/
def Obligations.AndIsBitwise : Prop :=
  ∀ (A B : LimbStore) (n : BitVec 32) (s : State),
    decode ⟨0x10, A, B, n⟩ = .instr (.and A B) ∧
    ∃ r : LimbStore,
      r = ⟨A.w0 &&& B.w0, A.w1 &&& B.w1, A.w2 &&& B.w2, A.w3 &&& B.w3⟩ ∧
      r.val = A.val &&& B.val ∧
      exec (.and A B) s = .next { s with R := r, Q := 0, ST := .ok, written := true }

/-- OR (R100, R102): opcode 0x11; limb by limb, which is bit by bit on the whole value. -/
def Obligations.OrIsBitwise : Prop :=
  ∀ (A B : LimbStore) (n : BitVec 32) (s : State),
    decode ⟨0x11, A, B, n⟩ = .instr (.or A B) ∧
    ∃ r : LimbStore,
      r = ⟨A.w0 ||| B.w0, A.w1 ||| B.w1, A.w2 ||| B.w2, A.w3 ||| B.w3⟩ ∧
      r.val = A.val ||| B.val ∧
      exec (.or A B) s = .next { s with R := r, Q := 0, ST := .ok, written := true }

/-- XOR (R100, R103): opcode 0x12; limb by limb, which is bit by bit on the whole value. -/
def Obligations.XorIsBitwise : Prop :=
  ∀ (A B : LimbStore) (n : BitVec 32) (s : State),
    decode ⟨0x12, A, B, n⟩ = .instr (.xor A B) ∧
    ∃ r : LimbStore,
      r = ⟨A.w0 ^^^ B.w0, A.w1 ^^^ B.w1, A.w2 ^^^ B.w2, A.w3 ^^^ B.w3⟩ ∧
      r.val = A.val ^^^ B.val ∧
      exec (.xor A B) s = .next { s with R := r, Q := 0, ST := .ok, written := true }

/-- NOT (R100, R104): opcode 0x13; a complement of each limb, which as a value is
`2^256 - 1 - val(A)`. -/
def Obligations.NotIsComplement : Prop :=
  ∀ (A B : LimbStore) (n : BitVec 32) (s : State),
    decode ⟨0x13, A, B, n⟩ = .instr (.not A) ∧
    ∃ r : LimbStore,
      r = ⟨~~~A.w0, ~~~A.w1, ~~~A.w2, ~~~A.w3⟩ ∧
      r.val = 2 ^ 256 - 1 - A.val ∧
      exec (.not A) s = .next { s with R := r, Q := 0, ST := .ok, written := true }

/-- The logic laws (R105): commutativity, associativity and De Morgan's laws among them. -/
def Obligations.LogicLaws : Prop :=
  (∀ a, notValue (notValue a) = a) ∧
  (∀ a, andValue a (notValue a) = .zero) ∧
  (∀ a, orValue a (notValue a) = .max) ∧
  (∀ a b, andValue a b = andValue b a ∧ orValue a b = orValue b a ∧ xorValue a b = xorValue b a) ∧
  (∀ a b c, andValue (andValue a b) c = andValue a (andValue b c) ∧
    orValue (orValue a b) c = orValue a (orValue b c) ∧
    xorValue (xorValue a b) c = xorValue a (xorValue b c)) ∧
  (∀ a b, notValue (andValue a b) = orValue (notValue a) (notValue b) ∧
    notValue (orValue a b) = andValue (notValue a) (notValue b))

end Logic

section Shift

/-- SHR in a LOGICAL build (R121): opcode 0x20; `R` is `val(A) div 2^s` with `s = SHAMT mod 256`,
across every limb boundary. -/
def Obligations.ShrLogicalIsFloorDivision : Prop :=
  ∀ (A B : LimbStore) (n : BitVec 32) (s : State),
    decode ⟨0x20, A, B, n⟩ = .instr (.shr A n) ∧
    (s.shrMode = .logical →
      exec (.shr A n) s = .next { s with
        R := lstore (A.val / 2 ^ (n.toInt % 256).toNat), Q := 0, ST := .ok, written := true })

/-- SHR in a DOC_LITERAL build (R122): the source's formulas; up to 64 the logical shift, above it
whole limbs moved and one limb shifted by the complement of the amount. -/
def Obligations.ShrDocLiteralFormulas : Prop :=
  ∀ (A B : LimbStore) (n : BitVec 32) (s : State) (k : Nat),
    decode ⟨0x20, A, B, n⟩ = .instr (.shr A n) ∧
    (s.shrMode = .docLiteral → k = (n.toInt % 256).toNat →
      exec (.shr A n) s = .next { s with
        R := if k ≤ 64 then lstore (A.val / 2 ^ k)
          else if k ≤ 128 then ⟨A.w1, A.w2, BitVec.ofNat 64 (A.w3.toNat / 2 ^ (128 - k)), 0⟩
          else if k ≤ 192 then ⟨A.w2, BitVec.ofNat 64 (A.w3.toNat / 2 ^ (192 - k)), 0, 0⟩
          else ⟨BitVec.ofNat 64 (A.w3.toNat / 2 ^ (256 - k)), 0, 0, 0⟩,
        Q := 0, ST := .ok, written := true })

/-- The shift laws (R123): the first two in both builds, the rest in a LOGICAL one. -/
def Obligations.ShiftLaws : Prop :=
  (∀ mode a, shrValue mode a 0 = a) ∧
  (∀ mode a (k : Int), -2 ^ 31 ≤ 256 * k → 256 * k < 2 ^ 31 →
    shrValue mode a (BitVec.ofInt 32 (256 * k)) = a) ∧
  (∀ mode a (n : BitVec 32), shrValue mode a n = shrValue mode a (BitVec.ofInt 32 (n.toInt % 256))) ∧
  (∀ a n, (shrValue .logical a n).val ≤ a.val) ∧
  (∀ a (n : BitVec 32), 256 - clzCount a ≤ (n.toInt % 256).toNat → shrValue .logical a n = .zero)

/-- Two logical shifts in a row (R121's corner case, which the spec marks as derived): they add up
while the sum is at most 255, and give `Zero` from 256 on. -/
def Obligations.LogicalShiftsCompose : Prop :=
  ∀ (a : LimbStore) (n m : BitVec 32),
    (shiftAmount n + shiftAmount m ≤ 255 →
      shrValue .logical (shrValue .logical a n) m =
        shrValue .logical a (BitVec.ofNat 32 (shiftAmount n + shiftAmount m))) ∧
    (256 ≤ shiftAmount n + shiftAmount m →
      shrValue .logical (shrValue .logical a n) m = .zero)

end Shift

section Compare

/-- EQ (R140, R142): opcode 0x30; `Q` is 1 when all four limb pairs are equal and 0 otherwise, `R` is
`Zero`. -/
def Obligations.EqWritesEquality : Prop :=
  ∀ (A B : LimbStore) (n : BitVec 32) (s : State),
    decode ⟨0x30, A, B, n⟩ = .instr (.eq A B) ∧
    exec (.eq A B) s = .next { s with
      R := .zero, Q := if A.val = B.val then 1 else 0, ST := .ok, written := true }

/-- NE (R140, R143): opcode 0x31. -/
def Obligations.NeWritesInequality : Prop :=
  ∀ (A B : LimbStore) (n : BitVec 32) (s : State),
    decode ⟨0x31, A, B, n⟩ = .instr (.ne A B) ∧
    exec (.ne A B) s = .next { s with
      R := .zero, Q := if A.val ≠ B.val then 1 else 0, ST := .ok, written := true }

/-- LT (R140, R144): opcode 0x32; unsigned numeric order. -/
def Obligations.LtWritesNumericOrder : Prop :=
  ∀ (A B : LimbStore) (n : BitVec 32) (s : State),
    decode ⟨0x32, A, B, n⟩ = .instr (.lt A B) ∧
    exec (.lt A B) s = .next { s with
      R := .zero, Q := if A.val < B.val then 1 else 0, ST := .ok, written := true }

/-- LE (R140, R145): opcode 0x33. -/
def Obligations.LeWritesNumericOrder : Prop :=
  ∀ (A B : LimbStore) (n : BitVec 32) (s : State),
    decode ⟨0x33, A, B, n⟩ = .instr (.le A B) ∧
    exec (.le A B) s = .next { s with
      R := .zero, Q := if A.val ≤ B.val then 1 else 0, ST := .ok, written := true }

/-- GT (R140, R146): opcode 0x34. -/
def Obligations.GtWritesNumericOrder : Prop :=
  ∀ (A B : LimbStore) (n : BitVec 32) (s : State),
    decode ⟨0x34, A, B, n⟩ = .instr (.gt A B) ∧
    exec (.gt A B) s = .next { s with
      R := .zero, Q := if A.val > B.val then 1 else 0, ST := .ok, written := true }

/-- GE (R140, R147): opcode 0x35. -/
def Obligations.GeWritesNumericOrder : Prop :=
  ∀ (A B : LimbStore) (n : BitVec 32) (s : State),
    decode ⟨0x35, A, B, n⟩ = .instr (.ge A B) ∧
    exec (.ge A B) s = .next { s with
      R := .zero, Q := if A.val ≥ B.val then 1 else 0, ST := .ok, written := true }

/-- The order laws (R148): trichotomy, transitivity, and the derived relations. -/
def Obligations.OrderLaws : Prop :=
  (∀ a b, (ltTest a b = true ∧ eqTest a b = false ∧ gtTest a b = false) ∨
    (ltTest a b = false ∧ eqTest a b = true ∧ gtTest a b = false) ∨
    (ltTest a b = false ∧ eqTest a b = false ∧ gtTest a b = true)) ∧
  (∀ a b c, ltTest a b = true → ltTest b c = true → ltTest a c = true) ∧
  (∀ a b, leTest a b = (ltTest a b || eqTest a b) ∧ geTest a b = (gtTest a b || eqTest a b) ∧
    neTest a b = !eqTest a b ∧ gtTest a b = ltTest b a)

end Compare

section BitCount

/-- POPCNT (R160, R161): opcode 0x40; `Q` is the number of 1 bits among the 256, `R` is `Zero`. -/
def Obligations.PopcntCountsOnes : Prop :=
  ∀ (A B : LimbStore) (n : BitVec 32) (s : State),
    decode ⟨0x40, A, B, n⟩ = .instr (.popcnt A) ∧
    exec (.popcnt A) s = .next { s with
      R := .zero, Q := BitVec.ofNat 32 ((List.range 256).countP fun k => A.val.testBit k),
      ST := .ok, written := true }

/-- CLZ (R160, R162): opcode 0x41; `Q` is `256 - bitlen(val(A))`, with `bitlen(0) = 0`, so 256 for
`Zero`. `Nat.size` is the number of bits up to the highest set one. -/
def Obligations.ClzCountsLeadingZeros : Prop :=
  ∀ (A B : LimbStore) (n : BitVec 32) (s : State),
    decode ⟨0x41, A, B, n⟩ = .instr (.clz A) ∧
    exec (.clz A) s = .next { s with
      R := .zero, Q := BitVec.ofNat 32 (256 - A.val.size), ST := .ok, written := true }

/-- CTZ (R160, R163): opcode 0x42; `Q` is the number of the lowest set bit, and 256 (the end of the
list searched) for `Zero`. -/
def Obligations.CtzCountsTrailingZeros : Prop :=
  ∀ (A B : LimbStore) (n : BitVec 32) (s : State),
    decode ⟨0x42, A, B, n⟩ = .instr (.ctz A) ∧
    exec (.ctz A) s = .next { s with
      R := .zero, Q := BitVec.ofNat 32 ((List.range 256).findIdx fun k => A.val.testBit k),
      ST := .ok, written := true }

/-- The bit-count laws (R164). -/
def Obligations.BitCountLaws : Prop :=
  (∀ a, popcntCount a + popcntCount (notValue a) = 256) ∧
  (∀ a, clzCount a = 256 ↔ a = .zero) ∧
  (∀ a, ctzCount a = 256 ↔ a = .zero) ∧
  (∀ a, a ≠ .zero → clzCount a + ctzCount a ≤ 255 ∧
    popcntCount a ≤ 256 - clzCount a - ctzCount a) ∧
  (∀ a, clzCount a + ctzCount a = 255 ↔ ∃ k, k < 256 ∧ a.val = 2 ^ k)

end BitCount

section HostSide

/-- The host's operand images (R43, R44, R45): 32 bytes; byte `j` of the little-endian one is
`v[8j+7 : 8j]` and of the big-endian one `v[255-8j : 248-8j]`; the big-endian image is the other in
reverse order; decoding with the same endianness gives the value back; another length is refused. -/
def Obligations.OperandImages : Prop :=
  (∀ e v, (encodeImage e v).length = 32) ∧
  (∀ (v : LimbStore) (j : Nat), j < 32 →
    ((encodeImage .little v).getD j 0).toNat = v.val / 2 ^ (8 * j) % 256 ∧
    ((encodeImage .big v).getD j 0).toNat = v.val / 2 ^ (248 - 8 * j) % 256) ∧
  (∀ v, encodeImage .big v = (encodeImage .little v).reverse) ∧
  (∀ e v, decodeImage e (encodeImage e v) = some v) ∧
  (∀ e (bs : List Byte), bs.length ≠ 32 → decodeImage e bs = none)

/-- The pseudo-instructions (R68): each stands for one transaction, and what it writes: `bool` is 1
iff some limb is nonzero, `iszero` is 1 iff the operand is `Zero`, `mov` and `complement` write `R`. -/
def Obligations.PseudoInstructions : Prop :=
  ∀ (a : LimbStore) (s : State),
    (assemble (.one .bool (.var a)) = some (.ne a .zero) ∧
      exec (.ne a .zero) s = .next { s with
        R := .zero, Q := if a.w0 ≠ 0 ∨ a.w1 ≠ 0 ∨ a.w2 ≠ 0 ∨ a.w3 ≠ 0 then 1 else 0,
        ST := .ok, written := true }) ∧
    (assemble (.one .iszero (.var a)) = some (.eq a .zero) ∧
      exec (.eq a .zero) s = .next { s with
        R := .zero, Q := if a = .zero then 1 else 0, ST := .ok, written := true }) ∧
    (assemble (.one .mov (.var a)) = some (.pos a) ∧
      exec (.pos a) s = .next { s with R := a, Q := 0, ST := .ok, written := true }) ∧
    (assemble (.one .complement (.var a)) = some (.not a) ∧
      exec (.not a) s = .next { s with
        R := ⟨~~~a.w0, ~~~a.w1, ~~~a.w2, ~~~a.w3⟩, Q := 0, ST := .ok, written := true })

/-- Assembler literals (R66; which shift literals fit is DEDUCED, log entry 8). A number has a limb
store exactly below `2^256`, a decimal amount a 32-bit one exactly from `-2^31` to `2^31 - 1`, a `0x`
amount exactly below `2^32`. In every form of line, an operand stands for what it denotes, four
limbs (R14) and host variables too; and a line with an operand that denotes nothing is refused. -/
def Obligations.AssemblerLiterals : Prop :=
  (∀ v : Nat, (∃ a, (ValueArg.number v).Denotes a) ↔ v < 2 ^ 256) ∧
  (∀ n : Int, (∃ m, (AmountArg.decimal n).Denotes m) ↔ -2 ^ 31 ≤ n ∧ n < 2 ^ 31) ∧
  (∀ n : Nat, (∃ m, (AmountArg.hex n).Denotes m) ↔ n < 2 ^ 32) ∧
  (∀ (m : TwoOperand) (x y : ValueArg),
    (∀ a b, x.Denotes a → y.Denotes b →
      assemble (.two m x y) = some (twoOperandInstr m a b)) ∧
    ((∀ a, ¬ x.Denotes a) ∨ (∀ b, ¬ y.Denotes b) → assemble (.two m x y) = none)) ∧
  (∀ (m : OneOperand) (x : ValueArg),
    (∀ a, x.Denotes a → assemble (.one m x) = some (oneOperandInstr m a)) ∧
    ((∀ a, ¬ x.Denotes a) → assemble (.one m x) = none)) ∧
  (∀ (x : ValueArg) (n : AmountArg),
    (∀ a m, x.Denotes a → n.Denotes m → assemble (.shift x n) = some (.shr a m)) ∧
    ((∀ a, ¬ x.Denotes a) ∨ (∀ m, ¬ n.Denotes m) → assemble (.shift x n) = none))

/-- The assembler's operand order (R66): in each of the eleven two-operand lines `a` goes to input `A`
and `b` to input `B`, in each one-operand line `a` to `A`, and in a shift line `a` to `A` and `n` to
`SHAMT`; each with the mnemonic's opcode (R63), the inputs it does not read passed as 0. -/
def Obligations.AssemblerOperandOrder : Prop :=
  (∀ a b : LimbStore,
    assembleTransaction (.two .add (.var a) (.var b)) = some ⟨0x00, a, b, 0⟩ ∧
    assembleTransaction (.two .sub (.var a) (.var b)) = some ⟨0x01, a, b, 0⟩ ∧
    assembleTransaction (.two .and (.var a) (.var b)) = some ⟨0x10, a, b, 0⟩ ∧
    assembleTransaction (.two .or (.var a) (.var b)) = some ⟨0x11, a, b, 0⟩ ∧
    assembleTransaction (.two .xor (.var a) (.var b)) = some ⟨0x12, a, b, 0⟩ ∧
    assembleTransaction (.two .eq (.var a) (.var b)) = some ⟨0x30, a, b, 0⟩ ∧
    assembleTransaction (.two .ne (.var a) (.var b)) = some ⟨0x31, a, b, 0⟩ ∧
    assembleTransaction (.two .lt (.var a) (.var b)) = some ⟨0x32, a, b, 0⟩ ∧
    assembleTransaction (.two .le (.var a) (.var b)) = some ⟨0x33, a, b, 0⟩ ∧
    assembleTransaction (.two .gt (.var a) (.var b)) = some ⟨0x34, a, b, 0⟩ ∧
    assembleTransaction (.two .ge (.var a) (.var b)) = some ⟨0x35, a, b, 0⟩) ∧
  (∀ a : LimbStore,
    assembleTransaction (.one .neg (.var a)) = some ⟨0x02, a, .zero, 0⟩ ∧
    assembleTransaction (.one .pos (.var a)) = some ⟨0x03, a, .zero, 0⟩ ∧
    assembleTransaction (.one .not (.var a)) = some ⟨0x13, a, .zero, 0⟩ ∧
    assembleTransaction (.one .popcnt (.var a)) = some ⟨0x40, a, .zero, 0⟩ ∧
    assembleTransaction (.one .clz (.var a)) = some ⟨0x41, a, .zero, 0⟩ ∧
    assembleTransaction (.one .ctz (.var a)) = some ⟨0x42, a, .zero, 0⟩) ∧
  (∀ (a : LimbStore) (n : BitVec 32),
    assembleTransaction (.shift (.var a) (.var n)) = some ⟨0x20, a, .zero, n⟩)

end HostSide

section Machine

/-- A step runs the decoded instruction: when the oldest waiting request is a transaction that
decodes to `i`, the step is exec of `i` at the state with that request taken. -/
def Obligations.StepRunsDecodedInstruction : Prop :=
  ∀ (s : State) (t : Transaction) (rest : List HostEvent) (i : Instr),
    s.inbox = .transact t :: rest → decode t = .instr i →
      step s = exec i { s with inbox := rest }

/-- A step with an unassigned opcode takes the exception (R180): the request is taken, `ST` becomes
ILLEGAL, `R`, `Q` and their marking stay, and the machine goes on. -/
def Obligations.StepTakesIllegalOp : Prop :=
  ∀ (s : State) (t : Transaction) (rest : List HostEvent),
    s.inbox = .transact t :: rest → t.wf = false →
      step s = .next { s with ST := .illegal, inbox := rest }

/-- Presenting a table word makes the next step run its instruction on the state as it was. -/
def Obligations.TableWordRunsNext : Prop :=
  ∀ (s : State) (w : Nat) (i : Instr), decodeTableWord 8 w = some i →
    step (s.withFetchWord 8 w) = exec i s

/-- After reset (R31): `ST` is NONE and `R` and `Q` are unwritten, in either build. -/
def Obligations.ResetLeavesUnwritten : Prop :=
  State.reset.ST = .none ∧ State.reset.written = false ∧
  ∀ mode : ShrMode, (State.resetFor mode).ST = .none ∧ (State.resetFor mode).written = false

/-- The reset action between two transactions (R200): `ST` becomes NONE and `R` and `Q` unwritten,
from every state. -/
def Obligations.ResetAction : Prop :=
  ∀ (s : State) (rest : List HostEvent), s.inbox = .reset :: rest →
    ∃ t, step s = .next t ∧ t.ST = .none ∧ t.written = false

/-- The host's side, the model's own choice (log entries 12 and 13): a step with no request waiting
changes nothing, and a reset takes one request and keeps the others, the readings and the build. -/
def Obligations.HostSideOfIdleAndReset : Prop :=
  (∀ s : State, s.inbox = [] → step s = .next s) ∧
  (∀ (s : State) (rest : List HostEvent), s.inbox = .reset :: rest →
    ∃ t, step s = .next t ∧ t.inbox = rest ∧ t.delivered = s.delivered ∧ t.shrMode = s.shrMode)

/-- The host's reads (R30, R42): a written `R` or `Q` is delivered as it stands; an unwritten one is
recorded as the fault UnwrittenRead, with no value; `ST` is always delivered; and a read changes no
register. The list of readings, and that the machine goes on after the record, are the model's form
(log entries 3 and 9). -/
def Obligations.HostReads : Prop :=
  ∀ (s : State) (rest : List HostEvent),
    (s.inbox = .readR :: rest → s.written = true →
      step s = .next { s with inbox := rest, delivered := .R s.R :: s.delivered }) ∧
    (s.inbox = .readQ :: rest → s.written = true →
      step s = .next { s with inbox := rest, delivered := .Q s.Q :: s.delivered }) ∧
    (s.inbox = .readR :: rest ∨ s.inbox = .readQ :: rest → s.written = false →
      step s = .next { s with inbox := rest, delivered := .unwrittenRead :: s.delivered }) ∧
    (s.inbox = .readST :: rest →
      step s = .next { s with inbox := rest, delivered := .ST s.ST.code :: s.delivered })

/-- The values of `ST` (R24): NONE is 0, OK is 1, ILLEGAL is 2, and 3 is never produced. -/
def Obligations.StatusValues : Prop :=
  Status.none.code = 0 ∧ Status.ok.code = 1 ∧ Status.illegal.code = 2 ∧
  ∀ st : Status, st.code ≠ 3

/-- Output holding (R206): a step that is no transaction and no reset leaves `R`, `Q`, `ST` and their
marking as they are. -/
def Obligations.OutputsHeldBetweenTransactions : Prop :=
  ∀ s t : State, (∀ x rest, s.inbox ≠ .transact x :: rest) → (∀ rest, s.inbox ≠ .reset :: rest) →
    step s = .next t → t.R = s.R ∧ t.Q = s.Q ∧ t.ST = s.ST ∧ t.written = s.written

/-- No other exception (R181): each of the eighteen instructions completes with OK on every input,
in every state. -/
def Obligations.EveryInstructionCompletes : Prop :=
  ∀ (i : Instr) (s : State), ∃ t, exec i s = .next t ∧ t.ST = .ok ∧ t.written = true

/-- The frame of every transaction, the eighteen instructions and the illegal opcodes alike: it ends
in a next state whose status is OK or ILLEGAL; the build's parameter and the host's side are
unchanged; an ILLEGAL one leaves `R`, `Q` and their marking; a value instruction leaves 0 in `Q` and
a scalar instruction leaves `Zero` in `R` (R22, R23, R180, R183). -/
def Obligations.TransactionFrame : Prop :=
  ∀ (t : Transaction) (s : State), ∃ u, transact t s = .next u ∧ SameHostSide s u ∧
    (t.wf = false → u.ST = .illegal ∧ u.R = s.R ∧ u.Q = s.Q ∧ u.written = s.written) ∧
    (t.wf = true → u.ST = .ok ∧ u.written = true) ∧
    (t.wf = true → t.fam.toNat ≤ 2 → u.Q = 0) ∧
    (t.wf = true → 3 ≤ t.fam.toNat → u.R = .zero)

/-- No side effects (R42): a read changes no register; a transaction changes none but `R`, `Q`, `ST`
and their marking; and two transactions in a row with the same inputs leave what one alone leaves. -/
def Obligations.TransactionIdempotent : Prop :=
  (∀ (s : State) (e : HostEvent), e.isRead = true → ∃ t, runEvent e s = .next t ∧
    t.R = s.R ∧ t.Q = s.Q ∧ t.ST = s.ST ∧ t.written = s.written) ∧
  (∀ (t : Transaction) (s : State), ∃ u, transact t s = .next u ∧ SameHostSide s u ∧
    transact t u = .next u)

/-- Ordering (R49): the outputs of a transaction that ends with OK depend only on its inputs and on
`SHR_MODE`, never on what earlier transactions left. -/
def Obligations.OutputsDependOnInputsOnly : Prop :=
  ∀ (t : Transaction) (s s' u u' : State), s.shrMode = s'.shrMode →
    transact t s = .next u → transact t s' = .next u' → u.ST = .ok →
      u'.ST = .ok ∧ u.R = u'.R ∧ u.Q = u'.Q

/-- Nothing stops the machine, and UnwrittenRead is recorded only where R30 says so. Every run of any
length from any state ends in a next state; and a step adds the record of UnwrittenRead exactly when
its request is a read of `R` or `Q` while they are unwritten. That the fault is recorded and the
machine goes on is the model's reading of "the model records the fault" (log entry 9, DEDUCED). -/
def Obligations.OnlyUnwrittenReadFaults : Prop :=
  (∀ (k : Nat) (s : State), ∃ t, Sys2Proof.core.run k s = .next t) ∧
  (∀ s t : State, step s = .next t →
    (t.delivered = .unwrittenRead :: s.delivered ↔
      s.written = false ∧ ∃ rest, s.inbox = .readR :: rest ∨ s.inbox = .readQ :: rest))

/-- The register invariant is kept by every step from every state that meets it. -/
def Obligations.EveryStepKeepsInv : Prop :=
  ∀ s t : State, s.Inv → step s = .next t → t.Inv ∧ t.shrMode = s.shrMode

/-- The register invariant holds right after reset, in either build. The parts about `R` and `Q` ask
nothing there, since both are unwritten: no clause rests on the zeros the model chose. -/
def Obligations.ResetMeetsInv : Prop :=
  ∀ mode : ShrMode, (State.resetFor mode).Inv

/-- When `R` and `Q` are written (R30): after any sequence of requests, reads among them, taken from a
state in which they are unwritten, they are written exactly when some transaction with an assigned
opcode came after the last reset. -/
def Obligations.WrittenExactlyAfterSuccess : Prop :=
  ∀ (s : State) (es : List HostEvent), s.written = false → s.inbox = es →
    ∃ u, Sys2Proof.core.run es.length s = .next u ∧ u.inbox = [] ∧
      (u.written = true ↔
        ∃ before t after, es = before ++ .transact t :: after ∧ t.wf = true ∧
          HostEvent.reset ∉ after)

/-- What unwritten registers hold cannot be observed (R30): two machines that differ only in the
contents of unwritten `R` and `Q` give the same readings, statuses and records, however long they
run. So no reading rests on the zeros the model chose for reset (log entry 1). -/
def Obligations.UnwrittenContentsUnobservable : Prop :=
  ∀ (k : Nat) (s t : State), s.Alike t →
    ∃ u v, Sys2Proof.core.run k s = .next u ∧ Sys2Proof.core.run k t = .next v ∧ u.Alike v

end Machine
end

