-- ==== Sys2Proof/Laws/Prim.lean ====
section
/-! SUPPORT. One spec lemma per limb primitive (00_scope.md R11), chain step and pair of limbs shifted. -/

namespace Sys2Proof.Machine

/-- `shr64` as a number. -/
@[simp] theorem shr64_toNat (x : Limb) (n : Nat) : (shr64 x n).toNat = x.toNat / 2 ^ n := by
  have h : x.toNat / 2 ^ n ≤ x.toNat := Nat.div_le_self _ _
  simpa only [shr64, BitVec.toNat_ofNat] using Nat.mod_eq_of_lt (h.trans_lt x.isLt)

/-- `shl64` as a number. -/
@[simp] theorem shl64_toNat (x : Limb) (n : Nat) :
    (shl64 x n).toNat = x.toNat * 2 ^ n % 2 ^ 64 := by
  simp [shl64]

/-- `shr64(x, 64) = 0` (R11). -/
theorem shr64_64 (x : Limb) : shr64 x 64 = 0 := by
  apply BitVec.eq_of_toNat_eq
  have := x.isLt
  simp only [shr64_toNat, BitVec.ofNat_eq_ofNat, BitVec.toNat_ofNat]
  omega

/-- `shl64(x, 64) = 0` (R11). -/
theorem shl64_64 (x : Limb) : shl64 x 64 = 0 := by
  apply BitVec.eq_of_toNat_eq
  simp

/-- `pop64` is at most 64 (R11). -/
theorem pop64_le (x : Limb) : pop64 x ≤ 64 := by
  simpa [pop64] using List.countP_le_length (l := List.range 64) (p := fun k => x.getLsbD k)

/-- `clz64` is at most 64 (R11). -/
theorem clz64_le (x : Limb) : clz64 x ≤ 64 := by
  simpa [clz64] using
    (List.takeWhile_prefix (l := List.range 64) fun k => !x.getLsbD (63 - k)).length_le

/-- `ctz64` is at most 64 (R11). -/
theorem ctz64_le (x : Limb) : ctz64 x ≤ 64 := by
  simpa [ctz64] using
    (List.takeWhile_prefix (l := List.range 64) fun k => !x.getLsbD k).length_le

/-- One step of the carry chain keeps the exact sum (40_arith.md R81). -/
theorem addLimb_sum (a b : Limb) (c : Nat) :
    (addLimb a b c).limb.toNat + (addLimb a b c).carry * 2 ^ 64 = a.toNat + b.toNat + c := by
  simp only [addLimb, BitVec.toNat_ofNat]
  omega

/-- The carry is 0 or 1 when the carry in is (R81). -/
theorem addLimb_carry_le (a b : Limb) (c : Nat) (hc : c ≤ 1) : (addLimb a b c).carry ≤ 1 := by
  have := a.isLt
  have := b.isLt
  simp only [addLimb]
  omega

/-- One step of the borrow chain keeps the exact difference (R82), written without subtraction. -/
theorem subLimb_difference (a b : Limb) (c : Nat) (hc : c ≤ 1) :
    (subLimb a b c).limb.toNat + b.toNat + c = a.toNat + (subLimb a b c).carry * 2 ^ 64 := by
  have := a.isLt
  have := b.isLt
  unfold subLimb
  simp only
  split <;> simp only [BitVec.toNat_ofInt] <;> omega

/-- The borrow is 0 or 1 (R82). -/
theorem subLimb_borrow_le (a b : Limb) (c : Nat) : (subLimb a b c).carry ≤ 1 := by
  unfold subLimb
  simp only
  split <;> simp

/-- The prefix of `off, off + 1, …` on which `p` holds: `p` holds below its length and, where the
prefix is proper, fails at its length. -/
theorem takeWhile_range'_spec (p : Nat → Bool) (m off : Nat) :
    (∀ j, j < ((List.range' off m).takeWhile p).length → p (off + j) = true) ∧
    (((List.range' off m).takeWhile p).length < m →
      p (off + ((List.range' off m).takeWhile p).length) = false) := by
  induction m generalizing off with
  | zero => simp
  | succ m ih =>
    rw [List.range'_succ]
    by_cases hp : p off = true
    · rw [List.takeWhile_cons_of_pos hp, List.length_cons]
      obtain ⟨below, at_end⟩ := ih (off + 1)
      refine ⟨fun j hj => ?_, fun h => ?_⟩
      · rcases j with _ | j
        · exact hp
        · rw [show off + (j + 1) = off + 1 + j by omega]
          exact below j (by omega)
      · rw [Nat.add_comm _ 1, ← Nat.add_assoc]
        exact at_end (by omega)
    · rw [List.takeWhile_cons_of_neg hp]
      simpa using hp

/-- `ctz64`: the bits below it are 0, and the bit at it, where there is one, is 1 (R11). -/
theorem ctz64_spec (x : Limb) :
    (∀ j < ctz64 x, x.getLsbD j = false) ∧ (ctz64 x < 64 → x.getLsbD (ctz64 x) = true) := by
  simpa [ctz64, List.range_eq_range'] using takeWhile_range'_spec (fun k => !x.getLsbD k) 64 0

/-- `clz64`: the bits above bit `63 - clz64 x` are 0, and that bit, where there is one, is 1 (R11). -/
theorem clz64_spec (x : Limb) :
    (∀ j < clz64 x, x.getLsbD (63 - j) = false) ∧
    (clz64 x < 64 → x.getLsbD (63 - clz64 x) = true) := by
  simpa [clz64, List.range_eq_range'] using
    takeWhile_range'_spec (fun k => !x.getLsbD (63 - k)) 64 0

/-- Two limbs shifted into the lower one: the low limb of the pair's value divided by `2^n`
(42_shift.md R121). -/
theorem funnel_toNat (lo hi : Limb) (n : Nat) (h1 : 1 ≤ n) (h64 : n ≤ 64) :
    (funnel lo hi n).toNat = (lo.toNat + hi.toNat * 2 ^ 64) / 2 ^ n % 2 ^ 64 := by
  have hlo := lo.isLt
  have pair : lo.toNat + hi.toNat * 2 ^ 64 = 2 ^ 64 * hi.toNat + lo.toNat := by ring
  have lo_above : ∀ j, 64 ≤ j → lo.toNat.testBit j = false := fun j hj =>
    Nat.testBit_lt_two_pow (hlo.trans_le (Nat.pow_le_pow_right (by omega) hj))
  simp only [funnel, BitVec.toNat_or, shr64_toNat, shl64_toNat]
  apply Nat.eq_of_testBit_eq
  intro i
  rw [pair, Nat.testBit_mod_two_pow, Nat.testBit_div_two_pow, Nat.testBit_or,
    Nat.testBit_div_two_pow, Nat.testBit_mod_two_pow, Nat.testBit_two_pow_mul_add _ hlo,
    Nat.mul_comm hi.toNat, Nat.testBit_two_pow_mul]
  by_cases low : i + n < 64
  · have : ¬ 64 - n ≤ i := by omega
    have : i < 64 := by omega
    simp [*]
  · rw [lo_above (i + n) (by omega)]
    by_cases inside : i < 64
    · have : 64 - n ≤ i := by omega
      have : i - (64 - n) = i + n - 64 := by omega
      simp [*]
    · simp [inside]

/-- An unequal first pair decides the scan (43_compare.md R141). -/
theorem scanLt_cons_ne (x y : Limb) (rest : List (Limb × Limb)) (h : x ≠ y) :
    scanLt ((x, y) :: rest) = decide (x.toNat < y.toNat) := by
  simp [scanLt, h]

/-- An equal first pair leaves the decision to the rest (R141). -/
theorem scanLt_cons_self (x : Limb) (rest : List (Limb × Limb)) :
    scanLt ((x, x) :: rest) = scanLt rest := by
  simp [scanLt]

end Sys2Proof.Machine
end

