-- ==== Sys2Proof/Laws/State.lean ====
section
/-! SUPPORT. One lemma per field per named update of State, so that no proof unfolds a record update. -/

namespace Sys2Proof.Machine

@[simp] theorem State.commitValue_R (s : State) (r : LimbStore) : (s.commitValue r).R = r := rfl
@[simp] theorem State.commitValue_Q (s : State) (r : LimbStore) : (s.commitValue r).Q = 0 := rfl
@[simp] theorem State.commitValue_ST (s : State) (r : LimbStore) : (s.commitValue r).ST = .ok := rfl
@[simp] theorem State.commitValue_written (s : State) (r : LimbStore) : (s.commitValue r).written = true := rfl
@[simp] theorem State.commitValue_shrMode (s : State) (r : LimbStore) : (s.commitValue r).shrMode = s.shrMode := rfl
@[simp] theorem State.commitValue_inbox (s : State) (r : LimbStore) : (s.commitValue r).inbox = s.inbox := rfl
@[simp] theorem State.commitValue_delivered (s : State) (r : LimbStore) : (s.commitValue r).delivered = s.delivered := rfl

@[simp] theorem State.commitScalar_R (s : State) (q : Scalar) : (s.commitScalar q).R = .zero := rfl
@[simp] theorem State.commitScalar_Q (s : State) (q : Scalar) : (s.commitScalar q).Q = q := rfl
@[simp] theorem State.commitScalar_ST (s : State) (q : Scalar) : (s.commitScalar q).ST = .ok := rfl
@[simp] theorem State.commitScalar_written (s : State) (q : Scalar) : (s.commitScalar q).written = true := rfl
@[simp] theorem State.commitScalar_shrMode (s : State) (q : Scalar) : (s.commitScalar q).shrMode = s.shrMode := rfl
@[simp] theorem State.commitScalar_inbox (s : State) (q : Scalar) : (s.commitScalar q).inbox = s.inbox := rfl
@[simp] theorem State.commitScalar_delivered (s : State) (q : Scalar) : (s.commitScalar q).delivered = s.delivered := rfl

@[simp] theorem State.raiseIllegalOp_R (s : State) (op : BitVec 8) : (s.raiseIllegalOp op).R = s.R := rfl
@[simp] theorem State.raiseIllegalOp_Q (s : State) (op : BitVec 8) : (s.raiseIllegalOp op).Q = s.Q := rfl
@[simp] theorem State.raiseIllegalOp_ST (s : State) (op : BitVec 8) : (s.raiseIllegalOp op).ST = .illegal := rfl
@[simp] theorem State.raiseIllegalOp_written (s : State) (op : BitVec 8) : (s.raiseIllegalOp op).written = s.written := rfl
@[simp] theorem State.raiseIllegalOp_shrMode (s : State) (op : BitVec 8) : (s.raiseIllegalOp op).shrMode = s.shrMode := rfl
@[simp] theorem State.raiseIllegalOp_inbox (s : State) (op : BitVec 8) : (s.raiseIllegalOp op).inbox = s.inbox := rfl
@[simp] theorem State.raiseIllegalOp_delivered (s : State) (op : BitVec 8) : (s.raiseIllegalOp op).delivered = s.delivered := rfl

@[simp] theorem State.applyReset_R (s : State) : (s.applyReset).R = .zero := rfl
@[simp] theorem State.applyReset_Q (s : State) : (s.applyReset).Q = 0 := rfl
@[simp] theorem State.applyReset_ST (s : State) : (s.applyReset).ST = .none := rfl
@[simp] theorem State.applyReset_written (s : State) : (s.applyReset).written = false := rfl
@[simp] theorem State.applyReset_shrMode (s : State) : (s.applyReset).shrMode = s.shrMode := rfl
@[simp] theorem State.applyReset_inbox (s : State) : (s.applyReset).inbox = s.inbox := rfl
@[simp] theorem State.applyReset_delivered (s : State) : (s.applyReset).delivered = s.delivered := rfl

@[simp] theorem State.withInbox_R (s : State) (es : List HostEvent) : (s.withInbox es).R = s.R := rfl
@[simp] theorem State.withInbox_Q (s : State) (es : List HostEvent) : (s.withInbox es).Q = s.Q := rfl
@[simp] theorem State.withInbox_ST (s : State) (es : List HostEvent) : (s.withInbox es).ST = s.ST := rfl
@[simp] theorem State.withInbox_written (s : State) (es : List HostEvent) : (s.withInbox es).written = s.written := rfl
@[simp] theorem State.withInbox_shrMode (s : State) (es : List HostEvent) : (s.withInbox es).shrMode = s.shrMode := rfl
@[simp] theorem State.withInbox_inbox (s : State) (es : List HostEvent) : (s.withInbox es).inbox = es := rfl
@[simp] theorem State.withInbox_delivered (s : State) (es : List HostEvent) : (s.withInbox es).delivered = s.delivered := rfl

@[simp] theorem State.present_R (s : State) (e : HostEvent) : (s.present e).R = s.R := rfl
@[simp] theorem State.present_Q (s : State) (e : HostEvent) : (s.present e).Q = s.Q := rfl
@[simp] theorem State.present_ST (s : State) (e : HostEvent) : (s.present e).ST = s.ST := rfl
@[simp] theorem State.present_written (s : State) (e : HostEvent) : (s.present e).written = s.written := rfl
@[simp] theorem State.present_shrMode (s : State) (e : HostEvent) : (s.present e).shrMode = s.shrMode := rfl
@[simp] theorem State.present_inbox (s : State) (e : HostEvent) : (s.present e).inbox = e :: s.inbox := rfl
@[simp] theorem State.present_delivered (s : State) (e : HostEvent) : (s.present e).delivered = s.delivered := rfl

@[simp] theorem State.deliver_R (s : State) (x : Reading) : (s.deliver x).R = s.R := rfl
@[simp] theorem State.deliver_Q (s : State) (x : Reading) : (s.deliver x).Q = s.Q := rfl
@[simp] theorem State.deliver_ST (s : State) (x : Reading) : (s.deliver x).ST = s.ST := rfl
@[simp] theorem State.deliver_written (s : State) (x : Reading) : (s.deliver x).written = s.written := rfl
@[simp] theorem State.deliver_shrMode (s : State) (x : Reading) : (s.deliver x).shrMode = s.shrMode := rfl
@[simp] theorem State.deliver_inbox (s : State) (x : Reading) : (s.deliver x).inbox = s.inbox := rfl
@[simp] theorem State.deliver_delivered (s : State) (x : Reading) : (s.deliver x).delivered = x :: s.delivered := rfl

@[simp] theorem State.hostReadR_R (s : State) : s.hostReadR.R = s.R := rfl
@[simp] theorem State.hostReadR_Q (s : State) : s.hostReadR.Q = s.Q := rfl
@[simp] theorem State.hostReadR_ST (s : State) : s.hostReadR.ST = s.ST := rfl
@[simp] theorem State.hostReadR_written (s : State) : s.hostReadR.written = s.written := rfl
@[simp] theorem State.hostReadR_shrMode (s : State) : s.hostReadR.shrMode = s.shrMode := rfl
@[simp] theorem State.hostReadR_inbox (s : State) : s.hostReadR.inbox = s.inbox := rfl
@[simp] theorem State.hostReadR_delivered (s : State) :
    s.hostReadR.delivered = (if s.written then .R s.R else .unwrittenRead) :: s.delivered := rfl

@[simp] theorem State.hostReadQ_R (s : State) : s.hostReadQ.R = s.R := rfl
@[simp] theorem State.hostReadQ_Q (s : State) : s.hostReadQ.Q = s.Q := rfl
@[simp] theorem State.hostReadQ_ST (s : State) : s.hostReadQ.ST = s.ST := rfl
@[simp] theorem State.hostReadQ_written (s : State) : s.hostReadQ.written = s.written := rfl
@[simp] theorem State.hostReadQ_shrMode (s : State) : s.hostReadQ.shrMode = s.shrMode := rfl
@[simp] theorem State.hostReadQ_inbox (s : State) : s.hostReadQ.inbox = s.inbox := rfl
@[simp] theorem State.hostReadQ_delivered (s : State) :
    s.hostReadQ.delivered = (if s.written then .Q s.Q else .unwrittenRead) :: s.delivered := rfl

@[simp] theorem State.hostReadST_R (s : State) : s.hostReadST.R = s.R := rfl
@[simp] theorem State.hostReadST_Q (s : State) : s.hostReadST.Q = s.Q := rfl
@[simp] theorem State.hostReadST_ST (s : State) : s.hostReadST.ST = s.ST := rfl
@[simp] theorem State.hostReadST_written (s : State) : s.hostReadST.written = s.written := rfl
@[simp] theorem State.hostReadST_shrMode (s : State) : s.hostReadST.shrMode = s.shrMode := rfl
@[simp] theorem State.hostReadST_inbox (s : State) : s.hostReadST.inbox = s.inbox := rfl
@[simp] theorem State.hostReadST_delivered (s : State) :
    s.hostReadST.delivered = .ST s.ST.code :: s.delivered := rfl

/-- Taking the request just presented gives the state as it was. -/
@[simp] theorem State.present_withInbox (s : State) (e : HostEvent) :
    (s.present e).withInbox s.inbox = s := rfl

/-- Two states with the same fields are the same state. -/
theorem State.ext_fields (s t : State) (hR : s.R = t.R) (hQ : s.Q = t.Q) (hST : s.ST = t.ST)
    (hw : s.written = t.written) (hm : s.shrMode = t.shrMode) (hi : s.inbox = t.inbox)
    (hd : s.delivered = t.delivered) : s = t := by
  cases s
  cases t
  simp_all

end Sys2Proof.Machine
end

