-- ==== Sys2Proof/Laws/Exec.lean ====
section
/-! SUPPORT. What an instruction, a transaction, a read and a step can do, each said once. -/

namespace Sys2Proof.Machine

theorem popcntCount_le (a : LimbStore) : popcntCount a ≤ 256 := by
  have := pop64_le a.w0
  have := pop64_le a.w1
  have := pop64_le a.w2
  have := pop64_le a.w3
  unfold popcntCount
  omega

theorem clzCount_le (a : LimbStore) : clzCount a ≤ 256 := by
  have := clz64_le a.w0
  have := clz64_le a.w1
  have := clz64_le a.w2
  have := clz64_le a.w3
  unfold clzCount
  split_ifs <;> omega

theorem ctzCount_le (a : LimbStore) : ctzCount a ≤ 256 := by
  have := ctz64_le a.w0
  have := ctz64_le a.w1
  have := ctz64_le a.w2
  have := ctz64_le a.w3
  unfold ctzCount
  split_ifs <;> omega

theorem truthScalar_le (p : Bool) : (truthScalar p).toNat ≤ 256 := by
  cases p <;> decide

theorem countScalar_toNat (n : Nat) (h : n ≤ 256) : (countScalar n).toNat = n := by
  simp only [countScalar, BitVec.toNat_ofNat]
  omega

/-- An instruction ends by committing a value, or a scalar of at most 256, that depends on its
operands and the build's `SHR_MODE` alone. -/
theorem exec_cases (i : Instr) (mode : ShrMode) :
    (∃ r, ∀ s : State, s.shrMode = mode → exec i s = .next (s.commitValue r)) ∨
    (∃ q : Scalar, q.toNat ≤ 256 ∧ ∀ s : State, exec i s = .next (s.commitScalar q)) := by
  cases i with
  | add a b => exact .inl ⟨_, fun _ _ => rfl⟩
  | sub a b => exact .inl ⟨_, fun _ _ => rfl⟩
  | neg a => exact .inl ⟨_, fun _ _ => rfl⟩
  | pos a => exact .inl ⟨_, fun _ _ => rfl⟩
  | and a b => exact .inl ⟨_, fun _ _ => rfl⟩
  | or a b => exact .inl ⟨_, fun _ _ => rfl⟩
  | xor a b => exact .inl ⟨_, fun _ _ => rfl⟩
  | not a => exact .inl ⟨_, fun _ _ => rfl⟩
  | shr a n => exact .inl ⟨shrValue mode a n, fun s h => by subst h; rfl⟩
  | eq a b => exact .inr ⟨_, truthScalar_le (eqTest a b), fun _ => rfl⟩
  | ne a b => exact .inr ⟨_, truthScalar_le (neTest a b), fun _ => rfl⟩
  | lt a b => exact .inr ⟨_, truthScalar_le (ltTest a b), fun _ => rfl⟩
  | le a b => exact .inr ⟨_, truthScalar_le (leTest a b), fun _ => rfl⟩
  | gt a b => exact .inr ⟨_, truthScalar_le (gtTest a b), fun _ => rfl⟩
  | ge a b => exact .inr ⟨_, truthScalar_le (geTest a b), fun _ => rfl⟩
  | popcnt a =>
    exact .inr ⟨_, (countScalar_toNat _ (popcntCount_le a)).trans_le (popcntCount_le a), fun _ => rfl⟩
  | clz a =>
    exact .inr ⟨_, (countScalar_toNat _ (clzCount_le a)).trans_le (clzCount_le a), fun _ => rfl⟩
  | ctz a =>
    exact .inr ⟨_, (countScalar_toNat _ (ctzCount_le a)).trans_le (ctzCount_le a), fun _ => rfl⟩

/-- What a transaction that decodes to an instruction does. -/
theorem transact_instr (t : Transaction) (s : State) (i : Instr) (h : decode t = .instr i) :
    transact t s = exec i s := by
  simp [transact, h]

/-- What a transaction with an unassigned opcode does (60_exceptions.md R180). -/
theorem transact_illegalOp (t : Transaction) (s : State) (op : BitVec 8)
    (h : decode t = .illegalOp op) : transact t s = .next (s.raiseIllegalOp op) := by
  simp [transact, h]

/-- A read of a written `R` delivers it (10_state.md R22, R30). -/
theorem hostReadR_written (s : State) (h : s.written = true) :
    s.hostReadR = s.deliver (.R s.R) := by
  simp [State.hostReadR, h]

/-- A read of an unwritten `R` is recorded as the fault (R30). -/
theorem hostReadR_unwritten (s : State) (h : s.written = false) :
    s.hostReadR = s.deliver .unwrittenRead := by
  simp [State.hostReadR, h]

/-- A read of a written `Q` delivers it (R23, R30). -/
theorem hostReadQ_written (s : State) (h : s.written = true) :
    s.hostReadQ = s.deliver (.Q s.Q) := by
  simp [State.hostReadQ, h]

/-- A read of an unwritten `Q` is recorded as the fault (R30). -/
theorem hostReadQ_unwritten (s : State) (h : s.written = false) :
    s.hostReadQ = s.deliver .unwrittenRead := by
  simp [State.hostReadQ, h]

/-- A step with no request waiting. -/
theorem step_idle (s : State) (h : s.inbox = []) : step s = .next s := by
  simp [step, takeRequest, h]

/-- A step with a request waiting runs the oldest one. -/
theorem step_request (s : State) (e : HostEvent) (rest : List HostEvent)
    (h : s.inbox = e :: rest) : step s = runEvent e (s.withInbox rest) := by
  simp [step, takeRequest, h]

@[simp] theorem runEvent_transact (t : Transaction) (s : State) :
    runEvent (.transact t) s = transact t s := rfl
@[simp] theorem runEvent_reset (s : State) : runEvent .reset s = .next s.applyReset := rfl
@[simp] theorem runEvent_readR (s : State) : runEvent .readR s = .next s.hostReadR := rfl
@[simp] theorem runEvent_readQ (s : State) : runEvent .readQ s = .next s.hostReadQ := rfl
@[simp] theorem runEvent_readST (s : State) : runEvent .readST s = .next s.hostReadST := rfl

/-- What a transaction does: with an assigned opcode it runs the instruction, with any other only
`ST` changes. -/
theorem transact_cases (t : Transaction) (s : State) :
    (∃ i, decode t = .instr i ∧ transact t s = exec i s) ∨
    (∃ op, decode t = .illegalOp op ∧ transact t s = .next (s.raiseIllegalOp op)) := by
  cases h : decode t with
  | instr i => exact .inl ⟨i, rfl, transact_instr t s i h⟩
  | illegalOp op => exact .inr ⟨op, rfl, transact_illegalOp t s op h⟩

end Sys2Proof.Machine
end

