-- ==== Sys2Proof/Laws/PerInstr.lean ====
section
/-! SUPPORT. Statements made per instruction: the encoder gives only well-formed transactions. -/

namespace Sys2Proof.Laws.EncodeWf

/-- The transaction that encodes the instruction is well formed (30_encoding.md R63, R64). -/
def Statement (i : Instr) : Prop := (encode i).wf = true

theorem add (a b : LimbStore) : Statement (.add a b) :=
  (by decide : opcodeAssigned (opcodeOf 0 0) = true)
theorem sub (a b : LimbStore) : Statement (.sub a b) :=
  (by decide : opcodeAssigned (opcodeOf 0 1) = true)
theorem neg (a : LimbStore) : Statement (.neg a) :=
  (by decide : opcodeAssigned (opcodeOf 0 2) = true)
theorem pos (a : LimbStore) : Statement (.pos a) :=
  (by decide : opcodeAssigned (opcodeOf 0 3) = true)
theorem and (a b : LimbStore) : Statement (.and a b) :=
  (by decide : opcodeAssigned (opcodeOf 1 0) = true)
theorem or (a b : LimbStore) : Statement (.or a b) :=
  (by decide : opcodeAssigned (opcodeOf 1 1) = true)
theorem xor (a b : LimbStore) : Statement (.xor a b) :=
  (by decide : opcodeAssigned (opcodeOf 1 2) = true)
theorem not (a : LimbStore) : Statement (.not a) :=
  (by decide : opcodeAssigned (opcodeOf 1 3) = true)
theorem shr (a : LimbStore) (n : BitVec 32) : Statement (.shr a n) :=
  (by decide : opcodeAssigned (opcodeOf 2 0) = true)
theorem eq (a b : LimbStore) : Statement (.eq a b) :=
  (by decide : opcodeAssigned (opcodeOf 3 0) = true)
theorem ne (a b : LimbStore) : Statement (.ne a b) :=
  (by decide : opcodeAssigned (opcodeOf 3 1) = true)
theorem lt (a b : LimbStore) : Statement (.lt a b) :=
  (by decide : opcodeAssigned (opcodeOf 3 2) = true)
theorem le (a b : LimbStore) : Statement (.le a b) :=
  (by decide : opcodeAssigned (opcodeOf 3 3) = true)
theorem gt (a b : LimbStore) : Statement (.gt a b) :=
  (by decide : opcodeAssigned (opcodeOf 3 4) = true)
theorem ge (a b : LimbStore) : Statement (.ge a b) :=
  (by decide : opcodeAssigned (opcodeOf 3 5) = true)
theorem popcnt (a : LimbStore) : Statement (.popcnt a) :=
  (by decide : opcodeAssigned (opcodeOf 4 0) = true)
theorem clz (a : LimbStore) : Statement (.clz a) :=
  (by decide : opcodeAssigned (opcodeOf 4 1) = true)
theorem ctz (a : LimbStore) : Statement (.ctz a) :=
  (by decide : opcodeAssigned (opcodeOf 4 2) = true)

end Sys2Proof.Laws.EncodeWf
end

