-- ==== Sys2Proof/Laws/Word.lean ====
section
/-! SUPPORT. Small facts about limb stores and their value. -/

namespace Sys2Proof

/-- A value is below `2^256` (00_scope.md R9). -/
theorem LimbStore.val_lt (L : LimbStore) : L.val < 2 ^ 256 := by
  have h0 := L.w0.isLt
  have h1 := L.w1.isLt
  have h2 := L.w2.isLt
  have h3 := L.w3.isLt
  unfold LimbStore.val
  omega

/-- The value of four limbs. -/
theorem LimbStore.val_mk (a b c d : Limb) :
    (LimbStore.mk a b c d).val =
      a.toNat + b.toNat * 2 ^ 64 + c.toNat * 2 ^ 128 + d.toNat * 2 ^ 192 := rfl

/-- A limb store is its four limbs. -/
theorem LimbStore.ext_limbs (a b : LimbStore) (h0 : a.w0 = b.w0) (h1 : a.w1 = b.w1)
    (h2 : a.w2 = b.w2) (h3 : a.w3 = b.w3) : a = b := by
  cases a
  cases b
  simp_all

/-- Equal values are equal limb stores: `val` is injective. -/
theorem LimbStore.val_inj (a b : LimbStore) (h : a.val = b.val) : a = b := by
  have a0 := a.w0.isLt
  have a1 := a.w1.isLt
  have a2 := a.w2.isLt
  have a3 := a.w3.isLt
  have b0 := b.w0.isLt
  have b1 := b.w1.isLt
  have b2 := b.w2.isLt
  have b3 := b.w3.isLt
  unfold LimbStore.val at h
  apply LimbStore.ext_limbs <;> apply BitVec.eq_of_toNat_eq <;> omega

@[simp] theorem LimbStore.w_zero (L : LimbStore) : L.w 0 = L.w0 := rfl
@[simp] theorem LimbStore.w_one (L : LimbStore) : L.w 1 = L.w1 := rfl
@[simp] theorem LimbStore.w_two (L : LimbStore) : L.w 2 = L.w2 := rfl
@[simp] theorem LimbStore.w_three (L : LimbStore) : L.w 3 = L.w3 := rfl

@[simp] theorem lstore_w0 (v : Nat) : (lstore v).w0 = BitVec.ofNat 64 v := rfl
@[simp] theorem lstore_w1 (v : Nat) : (lstore v).w1 = BitVec.ofNat 64 (v / 2 ^ 64) := rfl
@[simp] theorem lstore_w2 (v : Nat) : (lstore v).w2 = BitVec.ofNat 64 (v / 2 ^ 128) := rfl
@[simp] theorem lstore_w3 (v : Nat) : (lstore v).w3 = BitVec.ofNat 64 (v / 2 ^ 192) := rfl

end Sys2Proof
end

