-- ==== Sys2Proof/Tests/Slice0.lean ====
section
/-! SUPPORT. The model's own tests. Expected values are those of spec/95_test_vectors.md (the section
is named), or are written out from the rule named; the witnesses meet the statements' hypotheses. -/

namespace Sys2Proof.Tests

open Sys2Proof.Machine

/-- A value as 00_scope.md R14 writes it, most significant limb first. -/
def lit (w3 w2 w1 w0 : Limb) : LimbStore := ⟨w0, w1, w2, w3⟩

/-- The operand `X` of 95_test_vectors.md. -/
def X : LimbStore := lit 0x0123456789abcdef 0xfedcba9876543210 0x0f1e2d3c4b5a6978 0x8796a5b4c3d2e1f0

/-- The operand `Y` of 95_test_vectors.md. -/
def Y : LimbStore := lit 0xffff0000ffff0000 0x00000000ffffffff 0x8000000000000001 0x0000000000000000

/-- `R`, `Q` and `ST` after a step, if it answers a next state. -/
def outputs : Host.Outcome State Fault Refusal → Option (LimbStore × Scalar × Status)
  | .next s => some (s.R, s.Q, s.ST)
  | _ => none

/-- The readings the host has after a step, if it answers a next state. -/
def readings : Host.Outcome State Fault Refusal → Option (List Reading)
  | .next s => some s.delivered
  | _ => none

/-- A state in which `R` and `Q` are written. -/
def used : State := State.reset.commitScalar 256

/-- A build with the source's literal shift formulas. -/
def docBuild : State := State.resetFor .docLiteral

/-- The instruction with exec's outcome in the reset state. -/
def run1 (i : Instr) : Option (LimbStore × Scalar × Status) := outputs (exec i State.reset)

/-! ## Well-formedness: an ill-formed term for each check -/

theorem test_wf_assigned : Transaction.wf ⟨0x42, X, Y, 0⟩ = true := by decide
theorem test_illformed_family0 : Transaction.wf ⟨0x04, X, Y, 0⟩ = false := by decide
theorem test_illformed_family1 : Transaction.wf ⟨0x14, X, Y, 0⟩ = false := by decide
theorem test_illformed_family2 : Transaction.wf ⟨0x21, X, Y, 0⟩ = false := by decide
theorem test_illformed_family3 : Transaction.wf ⟨0x36, X, Y, 0⟩ = false := by decide
theorem test_illformed_family4 : Transaction.wf ⟨0x43, X, Y, 0⟩ = false := by decide
theorem test_illformed_family5 : Transaction.wf ⟨0x50, X, Y, 0⟩ = false := by decide
theorem test_illformed_number :
    ValueArg.wf (.number (2 ^ 256 - 1)) = true ∧ ValueArg.wf (.number (2 ^ 256)) = false := by decide
theorem test_illformed_decimal :
    AmountArg.wf (.decimal (-2 ^ 31)) = true ∧ AmountArg.wf (.decimal (-2 ^ 31 - 1)) = false ∧
    AmountArg.wf (.decimal (2 ^ 31)) = false := by decide
theorem test_illformed_hex :
    AmountArg.wf (.hex 0xFFFFFFFF) = true ∧ AmountArg.wf (.hex 0x100000000) = false := by decide
theorem test_illformed_line :
    assemble (.two .add (.number (2 ^ 256)) (.var X)) = none ∧
    assemble (.two .add (.var X) (.number (2 ^ 256))) = none ∧
    assemble (.one .neg (.number (2 ^ 256))) = none ∧
    assemble (.shift (.number (2 ^ 256)) (.hex 0)) = none ∧
    assemble (.shift (.var X) (.hex 0x100000000)) = none := by decide

/-! ## Decoding: words written out from 30_encoding.md R60 and R63, FAM then FN -/

theorem test_decode_arith :
    decode ⟨0b00000000, X, Y, 7⟩ = .instr (.add X Y) ∧
    decode ⟨0b00000001, X, Y, 7⟩ = .instr (.sub X Y) ∧
    decode ⟨0b00000010, X, Y, 7⟩ = .instr (.neg X) ∧
    decode ⟨0b00000011, X, Y, 7⟩ = .instr (.pos X) := by decide
theorem test_decode_logic :
    decode ⟨0b00010000, X, Y, 7⟩ = .instr (.and X Y) ∧
    decode ⟨0b00010001, X, Y, 7⟩ = .instr (.or X Y) ∧
    decode ⟨0b00010010, X, Y, 7⟩ = .instr (.xor X Y) ∧
    decode ⟨0b00010011, X, Y, 7⟩ = .instr (.not X) := by decide
theorem test_decode_shift : decode ⟨0b00100000, X, Y, 7⟩ = .instr (.shr X 7) := by decide
theorem test_decode_compare :
    decode ⟨0b00110000, X, Y, 7⟩ = .instr (.eq X Y) ∧
    decode ⟨0b00110001, X, Y, 7⟩ = .instr (.ne X Y) ∧
    decode ⟨0b00110010, X, Y, 7⟩ = .instr (.lt X Y) ∧
    decode ⟨0b00110011, X, Y, 7⟩ = .instr (.le X Y) ∧
    decode ⟨0b00110100, X, Y, 7⟩ = .instr (.gt X Y) ∧
    decode ⟨0b00110101, X, Y, 7⟩ = .instr (.ge X Y) := by decide
theorem test_decode_bitcount :
    decode ⟨0b01000000, X, Y, 7⟩ = .instr (.popcnt X) ∧
    decode ⟨0b01000001, X, Y, 7⟩ = .instr (.clz X) ∧
    decode ⟨0b01000010, X, Y, 7⟩ = .instr (.ctz X) := by decide
theorem test_decode_illegal :
    decode ⟨0x21, X, Y, 7⟩ = .illegalOp 0x21 ∧ decode ⟨0xFF, X, Y, 7⟩ = .illegalOp 0xFF := by decide
theorem test_table_word :
    decodeTableWord 8 0x20 = some (.shr .zero 0) ∧ decodeTableWord 8 0x22 = none ∧
    decodeTableWord 16 0x20 = none := by decide

/-! ## Instructions: the vectors of 95_test_vectors.md -/

theorem test_add_carry_three_limbs :
    run1 (.add (lit 0 0xffffffffffffffff 0xffffffffffffffff 0xffffffffffffffff) .one) =
      some (lit 1 0 0 0, 0, .ok) := by decide
theorem test_add_mixed :
    run1 (.add X Y) = some (lit 0x0122456889aacdef 0xfedcba997654320f 0x8f1e2d3c4b5a6979
      0x8796a5b4c3d2e1f0, 0, .ok) := by decide
theorem test_sub_borrow_three_limbs :
    run1 (.sub (lit 1 0 0 0) .one) =
      some (lit 0 0xffffffffffffffff 0xffffffffffffffff 0xffffffffffffffff, 0, .ok) := by decide
theorem test_sub_reversed :
    run1 (.sub Y X) = some (lit 0xfedbba9976533210 0x0123456889abcdef 0x70e1d2c3b4a59688
      0x78695a4b3c2d1e10, 0, .ok) := by decide
theorem test_neg_zero : run1 (.neg .zero) = some (.zero, 0, .ok) := by decide
theorem test_neg_mixed :
    run1 (.neg Y) = some (lit 0x0000ffff0000ffff 0xffffffff00000000 0x7fffffffffffffff 0, 0, .ok) := by
  decide
theorem test_pos : run1 (.pos X) = some (X, 0, .ok) := by decide
theorem test_and_mixed :
    run1 (.and X Y) = some (lit 0x0123000089ab0000 0x0000000076543210 0 0, 0, .ok) := by decide
theorem test_or_mixed :
    run1 (.or X Y) = some (lit 0xffff4567ffffcdef 0xfedcba98ffffffff 0x8f1e2d3c4b5a6979
      0x8796a5b4c3d2e1f0, 0, .ok) := by decide
theorem test_xor_mixed :
    run1 (.xor X Y) = some (lit 0xfedc45677654cdef 0xfedcba9889abcdef 0x8f1e2d3c4b5a6979
      0x8796a5b4c3d2e1f0, 0, .ok) := by decide
theorem test_not_mixed :
    run1 (.not Y) = some (lit 0x0000ffff0000ffff 0xffffffff00000000 0x7ffffffffffffffe
      0xffffffffffffffff, 0, .ok) := by decide

/-- 95_test_vectors.md section 2.3, the LOGICAL column, at the range boundaries. -/
theorem test_shr_logical :
    run1 (.shr X 64) = some (lit 0 0x0123456789abcdef 0xfedcba9876543210 0x0f1e2d3c4b5a6978, 0, .ok) ∧
    run1 (.shr X 65) = some (lit 0 0x0091a2b3c4d5e6f7 0xff6e5d4c3b2a1908 0x078f169e25ad34bc, 0, .ok) ∧
    run1 (.shr X 128) = some (lit 0 0 0x0123456789abcdef 0xfedcba9876543210, 0, .ok) ∧
    run1 (.shr X 191) = some (lit 0 0 0 0x02468acf13579bdf, 0, .ok) ∧
    run1 (.shr X 193) = some (lit 0 0 0 0x0091a2b3c4d5e6f7, 0, .ok) ∧
    run1 (.shr X (-64)) = some (lit 0 0 0 0x0123456789abcdef, 0, .ok) ∧
    run1 (.shr X 300) = some (lit 0x0000000000001234 0x56789abcdeffedcb 0xa98765432100f1e2
      0xd3c4b5a69788796a, 0, .ok) := by decide

/-- 95_test_vectors.md section 2.3, the DOC_LITERAL column. -/
theorem test_shr_docLiteral :
    outputs (exec (.shr X 100) docBuild) =
      some (lit 0 0x12345678 0xfedcba9876543210 0x0f1e2d3c4b5a6978, 0, .ok) ∧
    outputs (exec (.shr X 191) docBuild) =
      some (lit 0 0 0x0091a2b3c4d5e6f7 0xfedcba9876543210, 0, .ok) ∧
    outputs (exec (.shr X 193) docBuild) = some (.zero, 0, .ok) ∧
    outputs (exec (.shr X 255) docBuild) = some (lit 0 0 0 0x0091a2b3c4d5e6f7, 0, .ok) ∧
    outputs (exec (.shr .max 65) docBuild) =
      some (lit 0 1 0xffffffffffffffff 0xffffffffffffffff, 0, .ok) := by decide

theorem test_eq : run1 (.eq X X) = some (.zero, 1, .ok) ∧
    run1 (.eq (lit 0x8000000000000000 0 0 0) .zero) = some (.zero, 0, .ok) := by decide
theorem test_ne : run1 (.ne X Y) = some (.zero, 1, .ok) ∧ run1 (.ne X X) = some (.zero, 0, .ok) := by
  decide
theorem test_lt_higher_limb_decides :
    run1 (.lt (lit 0 0xffffffffffffffff 0xffffffffffffffff 0xffffffffffffffff) (lit 1 0 0 0)) =
      some (.zero, 1, .ok) ∧ run1 (.lt X X) = some (.zero, 0, .ok) := by decide
theorem test_le : run1 (.le X X) = some (.zero, 1, .ok) ∧ run1 (.le Y X) = some (.zero, 0, .ok) := by
  decide
theorem test_gt_unsigned :
    run1 (.gt (lit 0x8000000000000000 0 0 0)
      (lit 0x7fffffffffffffff 0xffffffffffffffff 0xffffffffffffffff 0xffffffffffffffff)) =
      some (.zero, 1, .ok) ∧ run1 (.gt X X) = some (.zero, 0, .ok) := by decide
theorem test_ge : run1 (.ge X X) = some (.zero, 1, .ok) ∧ run1 (.ge X Y) = some (.zero, 0, .ok) := by
  decide
theorem test_popcnt :
    run1 (.popcnt X) = some (.zero, 128, .ok) ∧ run1 (.popcnt .max) = some (.zero, 256, .ok) := by
  decide
theorem test_clz :
    run1 (.clz X) = some (.zero, 7, .ok) ∧ run1 (.clz (lit 0 0 1 0)) = some (.zero, 191, .ok) ∧
    run1 (.clz .zero) = some (.zero, 256, .ok) ∧ Config.clzZero = 256 := by decide
theorem test_ctz :
    run1 (.ctz Y) = some (.zero, 64, .ok) ∧
    run1 (.ctz (lit 0x8000000000000010 0 0 0)) = some (.zero, 196, .ok) ∧
    run1 (.ctz .zero) = some (.zero, 256, .ok) := by decide

/-! ## The machine: section 2.6, the host's reads, and the host's side -/

theorem test_illegal_at_reset :
    outputs (step (State.reset.present (.transact ⟨0x21, .one, .zero, 0⟩))) =
      some (State.reset.R, State.reset.Q, .illegal) := by decide
theorem test_illegal_keeps_results :
    outputs (transact ⟨0x04, X, Y, 0⟩ used) = some (.zero, 256, .illegal) := by decide
theorem test_unwritten_read_is_recorded :
    readings (step (State.reset.present .readR)) = some [.unwrittenRead] := by decide
/-- Program P4: "If the host had read `R` between t1 and t2, the model would have recorded
`UnwrittenRead`". The machine goes on, and `pos One` then completes. -/
theorem test_goes_on_after_record :
    outputs (step (State.reset.hostReadR.present (.transact ⟨0x03, .one, .zero, 0⟩))) =
      some (.one, 0, .ok) := by decide
theorem test_read_after_illegal :
    readings (step ((used.raiseIllegalOp 0xFF).present .readQ)) = some [.Q 256] := by decide
theorem test_read_status : readings (step (used.present .readST)) = some [.ST 1] := by decide
theorem test_reset_event :
    readings (runEvent .readQ used.applyReset) = some [.unwrittenRead] := by decide
theorem test_first_word_runs :
    outputs (step (State.reset.withFetchWord 8 0x41)) = some (.zero, 256, .ok) := by decide

/-- 95_test_vectors.md program P3: `lstore(2^64)` as a big-endian image, and its difference from 6 as
a little-endian one. -/
theorem test_images :
    decodeImage .big (List.replicate 23 0 ++ [1] ++ List.replicate 8 0) = some (lit 0 0 1 0) ∧
    encodeImage .little (lit 0 0 0 0xfffffffffffffffa) =
      [0xfa, 0xff, 0xff, 0xff, 0xff, 0xff, 0xff, 0xff] ++ List.replicate 24 0 := by decide
theorem test_transaction_of_images :
    transactionOfImages 0x32 .big .big (List.replicate 31 0 ++ [6]) (List.replicate 23 0 ++ [1] ++
      List.replicate 8 0) 0 = some ⟨0x32, lit 0 0 0 6, lit 0 0 1 0, 0⟩ ∧
    transactionOfImages 0x32 .little .big (6 :: List.replicate 31 0) (List.replicate 23 0 ++ [1] ++
      List.replicate 8 0) 0 = some ⟨0x32, lit 0 0 0 6, lit 0 0 1 0, 0⟩ := by decide
theorem test_mnemonic : mnemonicOf (.popcnt X) = "popcnt" := rfl
theorem test_pseudo_bool :
    assembleTransaction (.one .bool (.limbs 0 0 0 5)) = some ⟨0x31, lit 0 0 0 5, .zero, 0⟩ := by
  decide
theorem test_shift_line :
    assemble (.shift (.number 0x1F3) (.decimal (-1))) = some (.shr (lit 0 0 0 0x1F3) 0xFFFFFFFF) := by
  decide

/-! ## Witnesses: the hypotheses of each statement are met -/

theorem test_witness_UnassignedOpcodeIsIllegal :
    (0x04 : BitVec 8) ∉ [0x00, 0x01, 0x02, 0x03, 0x10, 0x11, 0x12, 0x13, 0x20,
      0x30, 0x31, 0x32, 0x33, 0x34, 0x35, 0x40, 0x41, (0x42 : BitVec 8)] ∧
    transact ⟨0x04, X, Y, 0⟩ used = .next { used with ST := .illegal } := ⟨by decide, rfl⟩
theorem test_witness_UnmarkedInputsHaveNoEffect :
    0x35#8 ∈ [0x00#8, 0x01#8, 0x10#8, 0x11#8, 0x12#8, 0x30#8, 0x31#8, 0x32#8, 0x33#8, 0x34#8, 0x35#8] ∧
    transact ⟨0x35, X, Y, 1⟩ used = transact ⟨0x35, X, Y, 2⟩ used ∧
    0x42#8 ∈ [0x02#8, 0x03#8, 0x13#8, 0x40#8, 0x41#8, 0x42#8] ∧
    transact ⟨0x42, X, Y, 1⟩ used = transact ⟨0x42, X, X, 2⟩ used ∧
    transact ⟨0x20, X, Y, 1⟩ used = transact ⟨0x20, X, X, 1⟩ used :=
  ⟨by decide, rfl, by decide, rfl, rfl⟩
theorem test_witness_ValAndLstoreInverse :
    2 ^ 256 - 1 < 2 ^ 256 ∧ (lstore (2 ^ 256 - 1)).val = 2 ^ 256 - 1 := by decide
theorem test_witness_BitNumbering :
    (255 : Nat) < 256 ∧ Y.val.testBit 255 = true ∧ (Y.w 3).getLsbD 63 = true := by decide
theorem test_witness_ShiftAmountMod256 :
    (0x12C : BitVec 32).extractLsb' 0 8 = (0x2C : BitVec 32).extractLsb' 0 8 ∧
    (0x21 : BitVec 8) ≠ 0x20 := by decide
theorem test_witness_HalfAdditionsAgree :
    [64, 128, 64].sum = 256 ∧ [128, 128].sum = 256 ∧ [64, 64, 64, 64].sum = 256 ∧
    addValue X Y = lstore (tieredSum [64, 128, 64] X.val Y.val 0) ∧
    subValue Y X = lstore (tieredDifference [128, 128] Y.val X.val 0) ∧
    addValue .max .one = lstore (2 ^ 128 % 2 ^ 128 + (2 ^ 128 - 1 + 2 ^ 128 / 2 ^ 128) % 2 ^ 128 *
      2 ^ 128) := by decide
theorem test_witness_ShrLogicalIsFloorDivision : State.reset.shrMode = .logical := rfl
theorem test_witness_ShrDocLiteralFormulas :
    docBuild.shrMode = .docLiteral ∧
    ([0, 64, 65, 128, 129, 192, 193, 255].map fun k => ((BitVec.ofNat 32 k).toInt % 256).toNat) =
      [0, 64, 65, 128, 129, 192, 193, 255] := ⟨rfl, by decide⟩
theorem test_witness_ShiftLaws :
    -2 ^ 31 ≤ 256 * (-8388608 : Int) ∧ 256 * (-8388608 : Int) < 2 ^ 31 ∧
    256 - clzCount .one ≤ ((1 : BitVec 32).toInt % 256).toNat := by decide
theorem test_witness_LogicalShiftsCompose :
    shiftAmount 255 + shiftAmount 0 ≤ 255 ∧ 256 ≤ shiftAmount 255 + shiftAmount 1 := by decide
theorem test_witness_OrderLaws :
    ltTest .zero .one = true ∧ ltTest .one X = true ∧ ltTest .zero X = true := by decide
theorem test_witness_BitCountLaws :
    LimbStore.one ≠ .zero ∧ clzCount .one + ctzCount .one = 255 := by decide
theorem test_witness_OperandImages :
    (31 : Nat) < 32 ∧ (encodeImage .big X).getD 31 0 = 0xf0 ∧
    (List.replicate 31 (0 : Byte)).length ≠ 32 := by decide
theorem test_witness_AssemblerLiterals :
    (ValueArg.number (2 ^ 256 - 1)).Denotes .max ∧ (∀ a, ¬ (ValueArg.number (2 ^ 256)).Denotes a) ∧
    (ValueArg.limbs 0 0 0 1).Denotes .one ∧ (AmountArg.decimal (-2 ^ 31)).Denotes 0x80000000 ∧
    (AmountArg.hex 0xFFFFFFFF).Denotes 0xFFFFFFFF ∧ (∀ m, ¬ (AmountArg.hex (2 ^ 32)).Denotes m) ∧
    (∀ m, ¬ (AmountArg.decimal (2 ^ 31)).Denotes m) := by
  refine ⟨(by decide : LimbStore.max.val = 2 ^ 256 - 1), fun a h => ?_, ⟨rfl, rfl, rfl, rfl⟩,
    (by decide : (0x80000000 : BitVec 32).toInt = -2 ^ 31),
    (by decide : (0xFFFFFFFF : BitVec 32).toNat = 0xFFFFFFFF), fun m h => ?_, fun m h => ?_⟩
  · have value_below : a.val < 2 ^ 256 := by
      have := a.w0.isLt
      have := a.w1.isLt
      have := a.w2.isLt
      have := a.w3.isLt
      unfold LimbStore.val
      omega
    exact absurd h (Nat.ne_of_lt value_below)
  · exact absurd h (Nat.ne_of_lt m.isLt)
  · exact absurd h (Int.ne_of_lt (BitVec.toInt_lt))
theorem test_witness_StepRunsDecodedInstruction :
    (used.present (.transact ⟨0x00, X, Y, 0⟩)).inbox = .transact ⟨0x00, X, Y, 0⟩ :: [] ∧
    decode ⟨0x00, X, Y, 0⟩ = .instr (.add X Y) := ⟨rfl, rfl⟩
theorem test_witness_StepTakesIllegalOp :
    (used.present (.transact ⟨0x50, X, Y, 0⟩)).inbox = .transact ⟨0x50, X, Y, 0⟩ :: [] ∧
    Transaction.wf ⟨0x50, X, Y, 0⟩ = false := ⟨rfl, by decide⟩
theorem test_witness_TableWordRunsNext : decodeTableWord 8 0x42 = some (.ctz .zero) := by decide
theorem test_witness_ResetAction : (used.present .reset).inbox = .reset :: [] := rfl
theorem test_witness_HostSideOfIdleAndReset :
    used.inbox = [] ∧ (used.present .reset).inbox = .reset :: [] := ⟨rfl, rfl⟩
theorem test_witness_TransactionIdempotent :
    HostEvent.isRead .readR = true ∧ runEvent .readR used = .next (used.deliver (.R .zero)) := ⟨rfl, rfl⟩
theorem test_witness_HostReads :
    (used.present .readR).inbox = .readR :: [] ∧ (used.present .readQ).inbox = .readQ :: [] ∧
    used.written = true ∧ (State.reset.present .readR).inbox = .readR :: [] ∧
    State.reset.written = false ∧ (used.present .readST).inbox = .readST :: [] :=
  ⟨rfl, rfl, rfl, rfl, rfl, rfl⟩
theorem test_witness_OutputsHeldBetweenTransactions :
    (∀ x rest, (used.present .readQ).inbox ≠ .transact x :: rest) ∧
    (∀ rest, (used.present .readQ).inbox ≠ .reset :: rest) ∧
    step (used.present .readQ) = .next (used.deliver (.Q 256)) :=
  ⟨by intros; simp [State.present, State.withInbox],
    by intros; simp [State.present, State.withInbox], rfl⟩
theorem test_witness_TransactionFrame :
    Transaction.wf ⟨0x43, X, Y, 0⟩ = false ∧ Transaction.wf ⟨0x20, X, Y, 0⟩ = true ∧
    (Transaction.fam ⟨0x20, X, Y, 0⟩).toNat = 2 ∧ Transaction.wf ⟨0x30, X, Y, 0⟩ = true ∧
    (Transaction.fam ⟨0x30, X, Y, 0⟩).toNat = 3 := by decide
theorem test_witness_OutputsDependOnInputsOnly :
    used.shrMode = State.reset.shrMode ∧
    transact ⟨0x03, X, Y, 0⟩ used = .next (used.commitValue X) ∧
    transact ⟨0x03, X, Y, 0⟩ State.reset = .next (State.reset.commitValue X) ∧
    (used.commitValue X).ST = .ok := ⟨rfl, rfl, rfl, rfl⟩
theorem test_witness_OnlyUnwrittenReadFaults :
    State.reset.written = false ∧ (State.reset.present .readQ).inbox = .readQ :: [] ∧
    step (State.reset.present .readQ) = .next (State.reset.deliver .unwrittenRead) := ⟨rfl, rfl, rfl⟩
theorem test_witness_EveryStepKeepsInv :
    (used.present (.transact ⟨0x03, X, Y, 0⟩)).Inv ∧
    step (used.present (.transact ⟨0x03, X, Y, 0⟩)) = .next (used.commitValue X) :=
  ⟨⟨fun _ => rfl, nofun, fun _ => .inl rfl, fun _ => by decide⟩, rfl⟩
theorem test_witness_WrittenExactlyAfterSuccess :
    let es : List HostEvent :=
      [.reset, .transact ⟨0x03, X, Y, 0⟩, .readR, .transact ⟨0x21, X, Y, 0⟩]
    (State.reset.withInbox es).written = false ∧ (State.reset.withInbox es).inbox = es ∧
    es = [HostEvent.reset] ++ .transact ⟨0x03, X, Y, 0⟩ :: [.readR, .transact ⟨0x21, X, Y, 0⟩] := by
  decide
theorem test_witness_UnwrittenContentsUnobservable :
    State.Alike State.reset { State.reset with R := X, Q := 5 } :=
  ⟨rfl, rfl, rfl, rfl, rfl, nofun, nofun⟩

end Sys2Proof.Tests
end

section
/-! Every step keeps the register invariant and the build's `SHR_MODE`. -/

namespace Sys2Proof.Machine

/-- The invariant speaks of `R`, `Q`, `ST` and the unwritten marking alone. -/
theorem State.Inv.of_registers_eq {s t : State} (h : s.Inv) (hR : t.R = s.R) (hQ : t.Q = s.Q)
    (hST : t.ST = s.ST) (hw : t.written = s.written) : t.Inv where
  written_of_ok := by simpa only [hST, hw] using h.written_of_ok
  unwritten_of_none := by simpa only [hST, hw] using h.unwritten_of_none
  one_is_zero := by simpa only [hR, hQ, hw] using h.one_is_zero
  scalar_bound := by simpa only [hQ, hw] using h.scalar_bound

theorem State.Inv.withInbox {s : State} (h : s.Inv) (es : List HostEvent) : (s.withInbox es).Inv :=
  h.of_registers_eq rfl rfl rfl rfl

/-- A read changes no register (20_memory.md R42). -/
theorem State.Inv.deliver {s : State} (h : s.Inv) (x : Reading) : (s.deliver x).Inv :=
  h.of_registers_eq rfl rfl rfl rfl

/-- A committed value meets the invariant whatever the state before: `Q` is 0. -/
theorem State.commitValue_inv (s : State) (r : LimbStore) : (s.commitValue r).Inv where
  written_of_ok _ := rfl
  unwritten_of_none := nofun
  one_is_zero _ := .inr rfl
  scalar_bound _ := Nat.zero_le 256

/-- A committed scalar of at most 256 meets the invariant whatever the state before: `R` is Zero. -/
theorem State.commitScalar_inv (s : State) {q : Scalar} (hq : q.toNat ≤ 256) :
    (s.commitScalar q).Inv where
  written_of_ok _ := rfl
  unwritten_of_none := nofun
  one_is_zero _ := .inl rfl
  scalar_bound _ := hq

/-- `ILLEGAL` asks nothing of the marking, and `R` and `Q` stay (60_exceptions.md R180). -/
theorem State.Inv.raiseIllegalOp {s : State} (h : s.Inv) (op : BitVec 8) :
    (s.raiseIllegalOp op).Inv where
  written_of_ok := nofun
  unwritten_of_none := nofun
  one_is_zero := h.one_is_zero
  scalar_bound := h.scalar_bound

/-- After reset `R` and `Q` are unwritten, so nothing is asked of them (10_state.md R31). -/
theorem State.applyReset_inv (s : State) : s.applyReset.Inv where
  written_of_ok := nofun
  unwritten_of_none _ := rfl
  one_is_zero := nofun
  scalar_bound := nofun

/-- What a transaction can answer: a value committed, a scalar of at most 256 committed, or
`IllegalOp` raised. -/
theorem transact_next_cases {x : Transaction} {s t : State} (h : transact x s = .next t) :
    (∃ r, t = s.commitValue r) ∨
    (∃ q : Scalar, q.toNat ≤ 256 ∧ t = s.commitScalar q) ∨
    (∃ op, t = s.raiseIllegalOp op) := by
  obtain ⟨i, -, hi⟩ | ⟨op, -, hop⟩ := transact_cases x s
  · obtain ⟨r, hr⟩ | ⟨q, hq, hexec⟩ := exec_cases i s.shrMode
    · rw [hi, hr s rfl] at h
      exact .inl ⟨r, (Host.Outcome.next.inj h).symm⟩
    · rw [hi, hexec] at h
      exact .inr (.inl ⟨q, hq, (Host.Outcome.next.inj h).symm⟩)
  · rw [hop] at h
    exact .inr (.inr ⟨op, (Host.Outcome.next.inj h).symm⟩)

theorem transact_keeps_inv {x : Transaction} {s t : State} (hs : s.Inv)
    (h : transact x s = .next t) : t.Inv ∧ t.shrMode = s.shrMode := by
  obtain ⟨r, rfl⟩ | ⟨q, hq, rfl⟩ | ⟨op, rfl⟩ := transact_next_cases h
  · exact ⟨s.commitValue_inv r, rfl⟩
  · exact ⟨s.commitScalar_inv hq, rfl⟩
  · exact ⟨hs.raiseIllegalOp op, rfl⟩

theorem runEvent_keeps_inv {e : HostEvent} {s t : State} (hs : s.Inv)
    (h : runEvent e s = .next t) : t.Inv ∧ t.shrMode = s.shrMode := by
  cases e with
  | transact x => exact transact_keeps_inv hs h
  | reset => obtain rfl := Host.Outcome.next.inj h; exact ⟨s.applyReset_inv, rfl⟩
  | readR => obtain rfl := Host.Outcome.next.inj h; exact ⟨hs.deliver _, rfl⟩
  | readQ => obtain rfl := Host.Outcome.next.inj h; exact ⟨hs.deliver _, rfl⟩
  | readST => obtain rfl := Host.Outcome.next.inj h; exact ⟨hs.deliver _, rfl⟩

/-- Settles O52: an idle step changes nothing; a request runs on registers that taking it from the
inbox leaves alone. -/
theorem everyStepKeepsInv : Obligations.EveryStepKeepsInv := by
  unfold Obligations.EveryStepKeepsInv
  intro s t hs h
  cases hin : s.inbox with
  | nil =>
    rw [step_idle s hin] at h
    obtain rfl := Host.Outcome.next.inj h
    exact ⟨hs, rfl⟩
  | cons e rest =>
    rw [step_request s e rest hin] at h
    simpa only [State.withInbox_shrMode] using runEvent_keeps_inv (hs.withInbox rest) h

end Sys2Proof.Machine
end

section
/-! Limb stores, their values and their bits (00_scope.md R8, R9). -/

namespace Sys2Proof

/-- Limb `i` of a store is digit `i` of its value in base `2^64` (R9). -/
theorem LimbStore.w_toNat (L : LimbStore) {i : Nat} (hi : i < 4) :
    (L.w i).toNat = L.val / 2 ^ (64 * i) % 2 ^ 64 := by
  have := L.w0.isLt
  have := L.w1.isLt
  have := L.w2.isLt
  have := L.w3.isLt
  unfold LimbStore.val
  interval_cases i <;> simp only [w_zero, w_one, w_two, w_three] <;> omega

/-- `lstore` is a right inverse of `val` below `2^256` (R9). -/
theorem val_lstore {v : Nat} (hv : v < 2 ^ 256) : (lstore v).val = v := by
  simp only [LimbStore.val, lstore_w0, lstore_w1, lstore_w2, lstore_w3, BitVec.toNat_ofNat]
  omega

/-- `lstore` is a left inverse of `val` (R9). -/
theorem lstore_val (L : LimbStore) : lstore L.val = L :=
  LimbStore.val_inj _ _ (val_lstore L.val_lt)

/-- Settles O5: the two inverse laws, and the limbs of a store as the digits of its value. -/
theorem valAndLstoreInverse : Obligations.ValAndLstoreInverse := by
  unfold Obligations.ValAndLstoreInverse
  refine ⟨fun L => ⟨L.val_lt, lstore_val L⟩, fun v hv => ⟨val_lstore hv, fun i hi => ?_⟩⟩
  rw [LimbStore.w_toNat _ hi, val_lstore hv]

/-- Settles O6: bit `k mod 64` of digit `k div 64` is bit `64 * (k div 64) + k mod 64 = k`. -/
theorem bitNumbering : Obligations.BitNumbering := by
  unfold Obligations.BitNumbering
  intro L k hk
  have hmod : k % 64 < 64 := Nat.mod_lt k (by decide)
  rw [← BitVec.testBit_toNat, L.w_toNat (by omega), Nat.testBit_mod_two_pow,
    Nat.testBit_div_two_pow, Nat.mod_add_div, decide_eq_true hmod, Bool.true_and]

end Sys2Proof
end

section
/-! The assembler's operands (30_encoding.md R66): what an operand denotes is what it is assembled
to, and it denotes something exactly when it is in range. -/

namespace Sys2Proof

open Sys2Proof.Machine

theorem ValueArg.denotes_iff (x : ValueArg) (a : LimbStore) :
    x.Denotes a ↔ x.wf = true ∧ a = valueOf x := by
  cases x with
  | number v =>
    simp only [Denotes, wf, valueOf, decide_eq_true_eq]
    constructor
    · rintro rfl
      exact ⟨a.val_lt, (lstore_val a).symm⟩
    · rintro ⟨hv, rfl⟩
      exact val_lstore hv
  | limbs w3 w2 w1 w0 =>
    simp only [Denotes, wf, valueOf, true_and]
    constructor
    · rintro ⟨h3, h2, h1, h0⟩
      exact LimbStore.ext_limbs _ _ h0 h1 h2 h3
    · rintro rfl
      exact ⟨rfl, rfl, rfl, rfl⟩
  | var u => simp only [Denotes, wf, valueOf, true_and]

theorem AmountArg.denotes_iff (n : AmountArg) (m : BitVec 32) :
    n.Denotes m ↔ n.wf = true ∧ m = amountOf n := by
  cases n with
  | decimal n =>
    simp only [Denotes, wf, amountOf, Bool.and_eq_true, decide_eq_true_eq]
    constructor
    · rintro rfl
      exact ⟨⟨m.le_toInt, m.toInt_lt⟩, (BitVec.ofInt_toInt).symm⟩
    · rintro ⟨⟨hlo, hhi⟩, rfl⟩
      exact BitVec.toInt_ofInt_eq_self (by decide) hlo hhi
  | hex n =>
    simp only [Denotes, wf, amountOf, decide_eq_true_eq]
    constructor
    · rintro rfl
      exact ⟨m.isLt, by rw [BitVec.ofNat_toNat, BitVec.setWidth_eq]⟩
    · rintro ⟨hn, rfl⟩
      exact Nat.mod_eq_of_lt hn
  | var u => simp only [Denotes, wf, amountOf, true_and]

/-- A value operand denotes something exactly when it is in range. -/
theorem ValueArg.exists_denotes_iff (x : ValueArg) : (∃ a, x.Denotes a) ↔ x.wf = true := by
  simp only [denotes_iff, exists_and_left, exists_eq, and_true]

/-- A shift operand denotes something exactly when it is in range. -/
theorem AmountArg.exists_denotes_iff (n : AmountArg) : (∃ m, n.Denotes m) ↔ n.wf = true := by
  simp only [denotes_iff, exists_and_left, exists_eq, and_true]

theorem ValueArg.wf_eq_false {x : ValueArg} (h : ∀ a, ¬ x.Denotes a) : x.wf = false := by
  rw [← Bool.not_eq_true, ← x.exists_denotes_iff]
  exact not_exists.mpr h

theorem AmountArg.wf_eq_false {n : AmountArg} (h : ∀ m, ¬ n.Denotes m) : n.wf = false := by
  rw [← Bool.not_eq_true, ← n.exists_denotes_iff]
  exact not_exists.mpr h

namespace Machine

theorem assemble_two (m : TwoOperand) (x y : ValueArg) :
    assemble (.two m x y) =
      if x.wf && y.wf then some (twoOperandInstr m (valueOf x) (valueOf y)) else none := rfl

theorem assemble_one (m : OneOperand) (x : ValueArg) :
    assemble (.one m x) = if x.wf then some (oneOperandInstr m (valueOf x)) else none := rfl

theorem assemble_shift (x : ValueArg) (n : AmountArg) :
    assemble (.shift x n) =
      if x.wf && n.wf then some (.shr (valueOf x) (amountOf n)) else none := rfl

end Machine

/-- Settles O36: an operand is in range exactly when it denotes something, and then denotes only
what the assembler puts for it. -/
theorem assemblerLiterals : Obligations.AssemblerLiterals := by
  unfold Obligations.AssemblerLiterals
  refine ⟨fun v => ?number, fun n => ?decimal, fun n => ?hex, fun m x y => ?two, fun m x => ?one,
    fun x n => ?shift⟩
  case number =>
    rw [ValueArg.exists_denotes_iff]
    exact decide_eq_true_iff
  case decimal =>
    simp only [AmountArg.exists_denotes_iff, AmountArg.wf, Bool.and_eq_true, decide_eq_true_eq]
  case hex =>
    rw [AmountArg.exists_denotes_iff]
    exact decide_eq_true_iff
  case two =>
    rw [assemble_two]
    refine ⟨fun a b ha hb => ?_, ?_⟩
    · obtain ⟨hx, rfl⟩ := (x.denotes_iff a).mp ha
      obtain ⟨hy, rfl⟩ := (y.denotes_iff b).mp hb
      simp only [hx, hy, Bool.and_self, if_true]
    · rintro (hx | hy)
      · simp [ValueArg.wf_eq_false hx]
      · simp [ValueArg.wf_eq_false hy]
  case one =>
    rw [assemble_one]
    refine ⟨fun a ha => ?_, fun hx => ?_⟩
    · obtain ⟨hx, rfl⟩ := (x.denotes_iff a).mp ha
      exact if_pos hx
    · simp [ValueArg.wf_eq_false hx]
  case shift =>
    rw [assemble_shift]
    refine ⟨fun a m ha hm => ?_, ?_⟩
    · obtain ⟨hx, rfl⟩ := (x.denotes_iff a).mp ha
      obtain ⟨hn, rfl⟩ := (n.denotes_iff m).mp hm
      simp only [hx, hn, Bool.and_self, if_true]
    · rintro (hx | hn)
      · simp [ValueArg.wf_eq_false hx]
      · simp [AmountArg.wf_eq_false hn]

end Sys2Proof
end

section
/-! What every transaction does, by the well-formedness and the family of its opcode (10_state.md R22,
R23; 60_exceptions.md R180, R183). -/

namespace Sys2Proof

@[simp] theorem familyOf_opcodeOf (fam fn : BitVec 4) : familyOf (opcodeOf fam fn) = fam := by
  revert fam fn
  decide

/-- The ranges of 30_encoding.md R64 hold no opcode outside the table of R63. -/
theorem mem_of_opcodeAssigned : ∀ op : BitVec 8, opcodeAssigned op = true →
    op ∈ [0x00#8, 0x01#8, 0x02#8, 0x03#8, 0x10#8, 0x11#8, 0x12#8, 0x13#8, 0x20#8,
      0x30#8, 0x31#8, 0x32#8, 0x33#8, 0x34#8, 0x35#8, 0x40#8, 0x41#8, 0x42#8] := by
  decide

/-- An instruction's encoding is well formed, whatever its operands are. -/
theorem encode_wf (i : Instr) : (encode i).wf = true := by
  cases i with
  | add a b => exact Laws.EncodeWf.add a b
  | sub a b => exact Laws.EncodeWf.sub a b
  | neg a => exact Laws.EncodeWf.neg a
  | pos a => exact Laws.EncodeWf.pos a
  | and a b => exact Laws.EncodeWf.and a b
  | or a b => exact Laws.EncodeWf.or a b
  | xor a b => exact Laws.EncodeWf.xor a b
  | not a => exact Laws.EncodeWf.not a
  | shr a n => exact Laws.EncodeWf.shr a n
  | eq a b => exact Laws.EncodeWf.eq a b
  | ne a b => exact Laws.EncodeWf.ne a b
  | lt a b => exact Laws.EncodeWf.lt a b
  | le a b => exact Laws.EncodeWf.le a b
  | gt a b => exact Laws.EncodeWf.gt a b
  | ge a b => exact Laws.EncodeWf.ge a b
  | popcnt a => exact Laws.EncodeWf.popcnt a
  | clz a => exact Laws.EncodeWf.clz a
  | ctz a => exact Laws.EncodeWf.ctz a

/-- An instruction is decoded from its own opcode only (30_encoding.md R63). -/
theorem OP_of_decode_instr {t : Transaction} {i : Instr} (h : decode t = .instr i) :
    t.OP = (encode i).OP := by
  unfold decode at h
  split at h <;> cases h <;> assumption

theorem fam_of_decode_instr {t : Transaction} {i : Instr} (h : decode t = .instr i) :
    t.fam = (encode i).fam :=
  congrArg familyOf (OP_of_decode_instr h)

theorem wf_of_decode_instr {t : Transaction} {i : Instr} (h : decode t = .instr i) :
    t.wf = true :=
  (congrArg opcodeAssigned (OP_of_decode_instr h)).trans (encode_wf i)

/-- An opcode is illegal only outside the assigned ranges of 30_encoding.md R64. -/
theorem wf_eq_false_of_decode_illegalOp {t : Transaction} {op : BitVec 8}
    (h : decode t = .illegalOp op) : t.wf = false := by
  rw [← Bool.not_eq_true]
  intro hwf
  have hop := mem_of_opcodeAssigned t.OP hwf
  simp only [List.mem_cons, List.not_mem_nil, or_false] at hop
  unfold decode at h
  split at h <;> cases h
  -- Only the decoder's last row is left, and it excludes the eighteen opcodes one by one.
  simp_all

end Sys2Proof

namespace Sys2Proof.Machine

/-- The families 0 to 2 commit a value and the families 3 and 4 a scalar, which depends on the
operands and the build's `SHR_MODE` alone (10_state.md R22, R23). -/
theorem exec_cases_of_fam (i : Instr) (mode : ShrMode) :
    ((encode i).fam.toNat ≤ 2 ∧
      ∃ r, ∀ s : State, s.shrMode = mode → exec i s = .next (s.commitValue r)) ∨
    (3 ≤ (encode i).fam.toNat ∧
      ∃ q : Scalar, ∀ s : State, exec i s = .next (s.commitScalar q)) := by
  cases i with
  | add | sub | neg | pos | and | or | xor | not =>
    exact .inl ⟨by simp [encode, Transaction.fam], _, fun _ _ => rfl⟩
  | shr a n =>
    exact .inl ⟨by simp [encode, Transaction.fam], shrValue mode a n,
      fun s h => by rw [← h]; rfl⟩
  | eq | ne | lt | le | gt | ge | popcnt | clz | ctz =>
    exact .inr ⟨by simp [encode, Transaction.fam], _, fun _ => rfl⟩

/-- What a transaction does, in every state of a build: the cases exclude each other, by the
well-formedness and the family of the opcode. -/
theorem transact_cases_of_fam (x : Transaction) (mode : ShrMode) :
    (x.wf = true ∧ x.fam.toNat ≤ 2 ∧
      ∃ r, ∀ s : State, s.shrMode = mode → transact x s = .next (s.commitValue r)) ∨
    (x.wf = true ∧ 3 ≤ x.fam.toNat ∧
      ∃ q, ∀ s : State, transact x s = .next (s.commitScalar q)) ∨
    (x.wf = false ∧ ∃ op, ∀ s : State, transact x s = .next (s.raiseIllegalOp op)) := by
  cases h : decode x with
  | instr i =>
    have hwf := wf_of_decode_instr h
    simp only [transact_instr x _ i h, fam_of_decode_instr h]
    obtain ⟨hfam, hvalue⟩ | ⟨hfam, hscalar⟩ := exec_cases_of_fam i mode
    · exact .inl ⟨hwf, hfam, hvalue⟩
    · exact .inr (.inl ⟨hwf, hfam, hscalar⟩)
  | illegalOp op =>
    exact .inr (.inr ⟨wf_eq_false_of_decode_illegalOp h, op, fun s => transact_illegalOp x s op h⟩)

/-- Settles O48, by the three ways a transaction can end: a value committed, a scalar committed, or
`IllegalOp` raised. -/
theorem transactionFrame : Obligations.TransactionFrame := by
  unfold Obligations.TransactionFrame
  intro x s
  obtain ⟨hwf, hfam, r, hr⟩ | ⟨hwf, hfam, q, hq⟩ | ⟨hwf, op, hop⟩ :=
    transact_cases_of_fam x s.shrMode
  · exact ⟨_, hr s rfl, ⟨rfl, rfl, rfl⟩, fun h => by simp [hwf] at h, fun _ => ⟨rfl, rfl⟩,
      fun _ _ => rfl, fun _ h => by omega⟩
  · exact ⟨_, hq s, ⟨rfl, rfl, rfl⟩, fun h => by simp [hwf] at h, fun _ => ⟨rfl, rfl⟩,
      fun _ h => by omega, fun _ _ => rfl⟩
  · exact ⟨_, hop s, ⟨rfl, rfl, rfl⟩, fun _ => ⟨rfl, rfl, rfl, rfl⟩, by simp [hwf]⟩

end Sys2Proof.Machine
end

section
/-! Single steps: the request that a step takes, the host's reads, and the registers after reset
(10_state.md R24, R30, R31; 20_memory.md R42, R49). -/

namespace Sys2Proof.Machine

/-- The oldest waiting request is a transaction that decodes to `i`. -/
theorem step_transact_instr {s : State} {x : Transaction} {rest : List HostEvent} {i : Instr}
    (hin : s.inbox = .transact x :: rest) (hi : decode x = .instr i) :
    step s = exec i (s.withInbox rest) := by
  rw [step_request s _ rest hin, runEvent_transact, transact_instr x _ i hi]

/-- A request just presented is the one the next step runs, on the state as it was. -/
theorem step_present (s : State) (e : HostEvent) : step (s.present e) = runEvent e s :=
  step_request (s.present e) e s.inbox rfl

theorem decode_tableTransaction {w : Nat} {i : Instr} (h : decodeTableWord 8 w = some i) :
    decode (tableTransaction w) = .instr i := by
  cases hd : decode (tableTransaction w) with
  | instr j => simpa [decodeTableWord, hd] using h
  | illegalOp op => simp [decodeTableWord, hd] at h

/-- Settles O38. -/
theorem stepRunsDecodedInstruction : Obligations.StepRunsDecodedInstruction := by
  unfold Obligations.StepRunsDecodedInstruction
  intro s x rest i hin hi
  exact step_transact_instr hin hi

/-- Settles O40: the word is placed as a transaction presented, which the next step takes. -/
theorem tableWordRunsNext : Obligations.TableWordRunsNext := by
  unfold Obligations.TableWordRunsNext
  intro s w i h
  calc step (s.withFetchWord 8 w)
      = transact (tableTransaction w) s := step_present s _
    _ = exec i s := transact_instr _ s i (decode_tableTransaction h)

/-- Settles O41. -/
theorem resetLeavesUnwritten : Obligations.ResetLeavesUnwritten := by
  unfold Obligations.ResetLeavesUnwritten
  exact ⟨rfl, rfl, fun _ => ⟨rfl, rfl⟩⟩

/-- Settles O44, by the rule for each read in a state with the request taken. -/
theorem hostReads : Obligations.HostReads := by
  unfold Obligations.HostReads
  refine fun s rest => ⟨fun hin hw => ?readR, fun hin hw => ?readQ, fun hin hw => ?unwritten,
    fun hin => ?readST⟩
  case readR =>
    rw [step_request s _ rest hin, runEvent_readR, hostReadR_written (s.withInbox rest) hw]
    rfl
  case readQ =>
    rw [step_request s _ rest hin, runEvent_readQ, hostReadQ_written (s.withInbox rest) hw]
    rfl
  case unwritten =>
    obtain hin | hin := hin
    · rw [step_request s _ rest hin, runEvent_readR, hostReadR_unwritten (s.withInbox rest) hw]
      rfl
    · rw [step_request s _ rest hin, runEvent_readQ, hostReadQ_unwritten (s.withInbox rest) hw]
      rfl
  case readST =>
    rw [step_request s _ rest hin, runEvent_readST]
    rfl

/-- Settles O45, by the three statuses. -/
theorem statusValues : Obligations.StatusValues := by
  unfold Obligations.StatusValues
  refine ⟨rfl, rfl, rfl, fun st => ?_⟩
  cases st <;> decide

/-- Settles O53: the state right after reset is what a reset request makes of it. -/
theorem resetMeetsInv : Obligations.ResetMeetsInv := by
  unfold Obligations.ResetMeetsInv
  exact fun mode => (State.resetFor mode).applyReset_inv

end Sys2Proof.Machine
end

section
/-! Every run goes on to its end, and what each of its steps writes and records (10_state.md R30). -/

namespace Sys2Proof.Machine

/-- What a transaction leaves alone, and when it writes `R` and `Q`. -/
theorem transact_next_frame {x : Transaction} {s t : State} (h : transact x s = .next t) :
    SameHostSide s t ∧ (t.written = true ↔ s.written = true ∨ x.wf = true) := by
  obtain ⟨hwf, -, r, hr⟩ | ⟨hwf, -, q, hq⟩ | ⟨hwf, op, hop⟩ :=
    transact_cases_of_fam x s.shrMode
  · obtain rfl := Host.Outcome.next.inj (h.symm.trans (hr s rfl))
    exact ⟨⟨rfl, rfl, rfl⟩, by simp [hwf]⟩
  · obtain rfl := Host.Outcome.next.inj (h.symm.trans (hq s))
    exact ⟨⟨rfl, rfl, rfl⟩, by simp [hwf]⟩
  · obtain rfl := Host.Outcome.next.inj (h.symm.trans (hop s))
    exact ⟨⟨rfl, rfl, rfl⟩, by simp [hwf]⟩

theorem runEvent_total (e : HostEvent) (s : State) : ∃ t, runEvent e s = .next t := by
  cases e with
  | transact x =>
    obtain ⟨t, ht, -⟩ := transactionFrame x s
    exact ⟨t, ht⟩
  | reset => exact ⟨_, runEvent_reset s⟩
  | readR => exact ⟨_, runEvent_readR s⟩
  | readQ => exact ⟨_, runEvent_readQ s⟩
  | readST => exact ⟨_, runEvent_readST s⟩

theorem step_total (s : State) : ∃ t, step s = .next t := by
  cases hin : s.inbox with
  | nil => exact ⟨s, step_idle s hin⟩
  | cons e rest =>
    rw [step_request s e rest hin]
    exact runEvent_total e _

theorem run_total (k : Nat) (s : State) : ∃ t, Sys2Proof.core.run k s = .next t := by
  induction k generalizing s with
  | zero => exact ⟨s, run_zero s⟩
  | succ k ih =>
    obtain ⟨t, ht⟩ := step_total s
    rw [run_succ_next k s t ht]
    exact ih t

/-- The fault is recorded by the reads of `R` and `Q` alone, while they are unwritten (R30). -/
theorem runEvent_records_unwrittenRead_iff {e : HostEvent} {s t : State}
    (h : runEvent e s = .next t) :
    t.delivered = .unwrittenRead :: s.delivered ↔
      s.written = false ∧ (e = .readR ∨ e = .readQ) := by
  cases e with
  | transact x =>
    obtain ⟨⟨-, -, hdelivered⟩, -⟩ := transact_next_frame h
    simp [hdelivered]
  | reset => obtain rfl := Host.Outcome.next.inj h; simp
  | readR => obtain rfl := Host.Outcome.next.inj h; cases hw : s.written <;> simp [hw]
  | readQ => obtain rfl := Host.Outcome.next.inj h; cases hw : s.written <;> simp [hw]
  | readST => obtain rfl := Host.Outcome.next.inj h; simp

/-- Settles O51: every step answers a next state, and only a read of `R` or `Q` adds the record. -/
theorem onlyUnwrittenReadFaults : Obligations.OnlyUnwrittenReadFaults := by
  unfold Obligations.OnlyUnwrittenReadFaults
  refine ⟨run_total, fun s t h => ?_⟩
  cases hin : s.inbox with
  | nil =>
    obtain rfl := Host.Outcome.next.inj ((step_idle s hin).symm.trans h)
    simp
  | cons e rest =>
    rw [step_request s e rest hin] at h
    simpa [exists_or] using runEvent_records_unwrittenRead_iff h

/-- No request changes those still waiting. -/
theorem runEvent_inbox {e : HostEvent} {s t : State} (h : runEvent e s = .next t) :
    t.inbox = s.inbox := by
  cases e with
  | transact x => exact (transact_next_frame h).1.requests
  | reset => obtain rfl := Host.Outcome.next.inj h; rfl
  | readR => obtain rfl := Host.Outcome.next.inj h; rfl
  | readQ => obtain rfl := Host.Outcome.next.inj h; rfl
  | readST => obtain rfl := Host.Outcome.next.inj h; rfl

/-- A request leaves `R` and `Q` written when it is no reset and they were, or when it is a
transaction with an assigned opcode. -/
theorem runEvent_written_iff {e : HostEvent} {s t : State} (h : runEvent e s = .next t) :
    t.written = true ↔
      (s.written = true ∧ .reset ≠ e) ∨ ∃ x, e = .transact x ∧ x.wf = true := by
  cases e with
  | transact x => simpa using (transact_next_frame h).2
  | reset => obtain rfl := Host.Outcome.next.inj h; simp
  | readR => obtain rfl := Host.Outcome.next.inj h; simp
  | readQ => obtain rfl := Host.Outcome.next.inj h; simp
  | readST => obtain rfl := Host.Outcome.next.inj h; simp

/-- Some transaction with an assigned opcode comes after the last reset. -/
def SuccessSinceReset (es : List HostEvent) : Prop :=
  ∃ before x after, es = before ++ .transact x :: after ∧ x.wf = true ∧ HostEvent.reset ∉ after

theorem not_successSinceReset_nil : ¬ SuccessSinceReset [] := by
  simp [SuccessSinceReset]

theorem successSinceReset_cons (e : HostEvent) (es : List HostEvent) :
    SuccessSinceReset (e :: es) ↔
      ((∃ x, e = .transact x ∧ x.wf = true) ∧ .reset ∉ es) ∨ SuccessSinceReset es := by
  constructor
  · rintro ⟨_ | ⟨_, before⟩, x, after, heq, hwf, hafter⟩
    · obtain ⟨rfl, rfl⟩ := List.cons.inj heq
      exact .inl ⟨⟨x, rfl, hwf⟩, hafter⟩
    · obtain ⟨rfl, rfl⟩ := List.cons.inj heq
      exact .inr ⟨before, x, after, rfl, hwf, hafter⟩
  · rintro (⟨⟨x, rfl, hwf⟩, hes⟩ | ⟨before, x, after, rfl, hwf, hafter⟩)
    · exact ⟨[], x, es, rfl, hwf, hes⟩
    · exact ⟨e :: before, x, after, rfl, hwf, hafter⟩

/-- A run that takes every waiting request, from any state: `R` and `Q` are written at its end when
they were at its start and no reset came, or a success came after the last reset. -/
theorem run_inbox (es : List HostEvent) (s : State) (hin : s.inbox = es) :
    ∃ u, Sys2Proof.core.run es.length s = .next u ∧ u.inbox = [] ∧
      (u.written = true ↔ (s.written = true ∧ .reset ∉ es) ∨ SuccessSinceReset es) := by
  induction es generalizing s with
  | nil => exact ⟨s, run_zero s, hin, by simp [not_successSinceReset_nil]⟩
  | cons e es ih =>
    obtain ⟨t, ht⟩ := runEvent_total e (s.withInbox es)
    have hstep : step s = .next t := (step_request s e es hin).trans ht
    obtain ⟨u, hrun, hinbox, hu⟩ := ih t (runEvent_inbox ht)
    refine ⟨u, (run_succ_next es.length s t hstep).trans hrun, hinbox, ?_⟩
    rw [hu, runEvent_written_iff ht, State.withInbox_written, successSinceReset_cons,
      List.mem_cons, not_or, or_and_right, and_assoc, or_assoc]

/-- Settles O54, by induction on the requests over every state, written or not. -/
theorem writtenExactlyAfterSuccess : Obligations.WrittenExactlyAfterSuccess := by
  unfold Obligations.WrittenExactlyAfterSuccess
  intro s es hw hin
  obtain ⟨u, hrun, hinbox, hu⟩ := run_inbox es s hin
  refine ⟨u, hrun, hinbox, hu.trans ?_⟩
  simp [hw, SuccessSinceReset]

end Sys2Proof.Machine
end

section
/-! States that differ only in what unwritten `R` and `Q` hold stay so (10_state.md R30). -/

namespace Sys2Proof.Machine

theorem State.Alike.withInbox {s t : State} (h : s.Alike t) (es : List HostEvent) :
    (s.withInbox es).Alike (t.withInbox es) :=
  { h with requests := rfl }

/-- A read that gives both hosts the same keeps the states alike. -/
theorem State.Alike.deliver {s t : State} (h : s.Alike t) {x y : Reading} (hxy : x = y) :
    (s.deliver x).Alike (t.deliver y) :=
  { h with readings := congrArg₂ List.cons hxy h.readings }

theorem State.Alike.hostReadR {s t : State} (h : s.Alike t) : s.hostReadR.Alike t.hostReadR := by
  refine h.deliver ?_
  rw [← h.marking]
  split
  · rw [h.value ‹_›]
  · rfl

theorem State.Alike.hostReadQ {s t : State} (h : s.Alike t) : s.hostReadQ.Alike t.hostReadQ := by
  refine h.deliver ?_
  rw [← h.marking]
  split
  · rw [h.scalar ‹_›]
  · rfl

theorem State.Alike.hostReadST {s t : State} (h : s.Alike t) : s.hostReadST.Alike t.hostReadST :=
  h.deliver (congrArg (fun st => Reading.ST st.code) h.status)

theorem State.Alike.applyReset {s t : State} (h : s.Alike t) : s.applyReset.Alike t.applyReset :=
  { h with status := rfl, marking := rfl, value := nofun, scalar := nofun }

theorem State.Alike.commitValue {s t : State} (h : s.Alike t) (r : LimbStore) :
    (s.commitValue r).Alike (t.commitValue r) :=
  { h with status := rfl, marking := rfl, value := fun _ => rfl, scalar := fun _ => rfl }

theorem State.Alike.commitScalar {s t : State} (h : s.Alike t) (q : Scalar) :
    (s.commitScalar q).Alike (t.commitScalar q) :=
  { h with status := rfl, marking := rfl, value := fun _ => rfl, scalar := fun _ => rfl }

theorem State.Alike.raiseIllegalOp {s t : State} (h : s.Alike t) (op : BitVec 8) :
    (s.raiseIllegalOp op).Alike (t.raiseIllegalOp op) :=
  { h with status := rfl }

/-- A transaction reads neither `R` nor `Q`, so alike states of one build end it alike. -/
theorem State.Alike.transact {s t : State} (h : s.Alike t) (x : Transaction) :
    ∃ u v, transact x s = .next u ∧ transact x t = .next v ∧ u.Alike v := by
  obtain ⟨-, -, r, hr⟩ | ⟨-, -, q, hq⟩ | ⟨-, op, hop⟩ := transact_cases_of_fam x s.shrMode
  · exact ⟨_, _, hr s rfl, hr t h.mode.symm, h.commitValue r⟩
  · exact ⟨_, _, hq s, hq t, h.commitScalar q⟩
  · exact ⟨_, _, hop s, hop t, h.raiseIllegalOp op⟩

theorem State.Alike.runEvent {s t : State} (h : s.Alike t) (e : HostEvent) :
    ∃ u v, runEvent e s = .next u ∧ runEvent e t = .next v ∧ u.Alike v := by
  cases e with
  | transact x => exact h.transact x
  | reset => exact ⟨_, _, rfl, rfl, h.applyReset⟩
  | readR => exact ⟨_, _, rfl, rfl, h.hostReadR⟩
  | readQ => exact ⟨_, _, rfl, rfl, h.hostReadQ⟩
  | readST => exact ⟨_, _, rfl, rfl, h.hostReadST⟩

theorem State.Alike.step {s t : State} (h : s.Alike t) :
    ∃ u v, step s = .next u ∧ step t = .next v ∧ u.Alike v := by
  cases hin : s.inbox with
  | nil => exact ⟨s, t, step_idle s hin, step_idle t (h.requests.symm.trans hin), h⟩
  | cons e rest =>
    rw [step_request s e rest hin, step_request t e rest (h.requests.symm.trans hin)]
    exact (h.withInbox rest).runEvent e

/-- Settles O55, by induction on the number of steps: a step keeps two states alike. -/
theorem unwrittenContentsUnobservable : Obligations.UnwrittenContentsUnobservable := by
  unfold Obligations.UnwrittenContentsUnobservable
  intro k
  induction k with
  | zero => exact fun s t h => ⟨s, t, run_zero s, run_zero t, h⟩
  | succ k ih =>
    intro s t h
    obtain ⟨s', t', hs, ht, h'⟩ := h.step
    rw [run_succ_next k s s' hs, run_succ_next k t t' ht]
    exact ih s' t' h'

end Sys2Proof.Machine
end

section
/-! The host's operand images (20_memory.md R43 to R45): the little-endian image holds the digits of
the value in base 256, and the big-endian one holds them in reverse. -/

namespace Sys2Proof.Machine

/-- Byte `j` of a value is digit `j` of it in base 256 (R43): limb `j div 8` is a digit in base
`2^64`, and its byte `j mod 8` lies within it. -/
theorem byteOf_toNat (v : LimbStore) {j : Nat} (hj : j < 32) :
    (byteOf v j).toNat = v.val / 2 ^ (8 * j) % 256 := by
  have within_limb : 2 ^ 64 = 2 ^ (8 * (j % 8)) * 2 ^ (64 - 8 * (j % 8)) := by
    rw [← pow_add]
    congr 1
    omega
  have byte_dvd : 2 ^ 8 ∣ 2 ^ (64 - 8 * (j % 8)) := pow_dvd_pow 2 (by omega)
  have position : 64 * (j / 8) + 8 * (j % 8) = 8 * j := by omega
  calc (byteOf v j).toNat
      = v.val / 2 ^ (64 * (j / 8)) % 2 ^ 64 / 2 ^ (8 * (j % 8)) % 2 ^ 8 := by
        rw [byteOf, BitVec.extractLsb'_toNat, Nat.shiftRight_eq_div_pow, v.w_toNat (by omega)]
    _ = v.val / 2 ^ (64 * (j / 8)) / 2 ^ (8 * (j % 8)) % 2 ^ 8 := by
        rw [within_limb, Nat.mod_mul_right_div_self, Nat.mod_mod_of_dvd _ byte_dvd]
    _ = v.val / 2 ^ (8 * j) % 2 ^ 8 := by
        rw [Nat.div_div_eq_div_mul, ← pow_add, position]

theorem natOfBytes_eq_ofDigits (bs : List Byte) :
    natOfBytes bs = Nat.ofDigits 256 (bs.map BitVec.toNat) := by
  induction bs with
  | nil => rfl
  | cons b bs ih => rw [natOfBytes, ih, List.map_cons, Nat.ofDigits_cons]

/-- The low `n` bytes of a value are the value modulo `256^n`. -/
theorem natOfBytes_lowBytes (v : LimbStore) {n : Nat} (hn : n ≤ 32) :
    natOfBytes ((List.range n).map (byteOf v)) = v.val % 256 ^ n := by
  induction n with
  | zero => exact (Nat.mod_one v.val).symm
  | succ n ih =>
    have low := ih (by omega)
    rw [natOfBytes_eq_ofDigits] at low ⊢
    have base : 2 ^ (8 * n) = 256 ^ n := pow_mul 2 8 n
    rw [List.range_succ, List.map_append, List.map_append, Nat.ofDigits_append, low]
    simp only [List.map_cons, List.map_nil, Nat.ofDigits_singleton, List.length_map,
      List.length_range]
    rw [byteOf_toNat v hn, base, Nat.mod_pow_succ]

@[simp] theorem encodeImage_length (e : Endian) (v : LimbStore) :
    (encodeImage e v).length = 32 := by
  cases e <;> simp only [encodeImage, List.length_map, List.length_range]

theorem encodeImage_little_getD (v : LimbStore) {j : Nat} (hj : j < 32) :
    (encodeImage .little v).getD j 0 = byteOf v j := by
  simp [encodeImage, hj]

theorem encodeImage_big_getD (v : LimbStore) {j : Nat} (hj : j < 32) :
    (encodeImage .big v).getD j 0 = byteOf v (31 - j) := by
  simp [encodeImage, hj]

/-- The two byte orders are the reverse of each other (R44). -/
theorem encodeImage_big_eq_reverse (v : LimbStore) :
    encodeImage .big v = (encodeImage .little v).reverse := by
  have indices : (List.range 32).map (31 - ·) = (List.range 32).reverse := by decide
  simp only [encodeImage]
  rw [← List.map_reverse, ← indices, List.map_map]
  rfl

theorem natOfBytes_encodeImage_little (v : LimbStore) :
    natOfBytes (encodeImage .little v) = v.val := by
  calc natOfBytes (encodeImage .little v)
      = v.val % 256 ^ 32 := natOfBytes_lowBytes v le_rfl
    _ = v.val := Nat.mod_eq_of_lt v.val_lt

theorem decodeImage_little {bs : List Byte} (h : bs.length = 32) :
    decodeImage .little bs = some (lstore (natOfBytes bs)) :=
  if_pos h

theorem decodeImage_big {bs : List Byte} (h : bs.length = 32) :
    decodeImage .big bs = some (lstore (natOfBytes bs.reverse)) :=
  if_pos h

/-- Another length than 32 is refused (93_implementation_defined.md I15). -/
theorem decodeImage_of_length_ne (e : Endian) {bs : List Byte} (h : bs.length ≠ 32) :
    decodeImage e bs = none :=
  if_neg h

/-- Decoding with the byte order of the encoding gives the value back (R45). -/
theorem decodeImage_encodeImage (e : Endian) (v : LimbStore) :
    decodeImage e (encodeImage e v) = some v := by
  cases e with
  | little =>
    rw [decodeImage_little (encodeImage_length _ v), natOfBytes_encodeImage_little, lstore_val]
  | big =>
    rw [decodeImage_big (encodeImage_length _ v), encodeImage_big_eq_reverse, List.reverse_reverse,
      natOfBytes_encodeImage_little, lstore_val]

/-- Settles O34: a big-endian image's byte `j` is byte `31 - j` of the value. -/
theorem operandImages : Obligations.OperandImages := by
  unfold Obligations.OperandImages
  refine ⟨encodeImage_length, fun v j hj => ⟨?little, ?big⟩, encodeImage_big_eq_reverse,
    decodeImage_encodeImage, fun e _ => decodeImage_of_length_ne e⟩
  case little => rw [encodeImage_little_getD v hj, byteOf_toNat v hj]
  case big =>
    have position : 248 - 8 * j = 8 * (31 - j) := by omega
    rw [encodeImage_big_getD v hj, byteOf_toNat v (by omega), position]

end Sys2Proof.Machine
end

section
/-! A transaction's outputs come from its inputs and the build alone, so it is idempotent, and a
read has no side effect (20_memory.md R42, R49). -/

namespace Sys2Proof.Machine

/-- A read changes no register (R42). -/
theorem runEvent_read_keeps_registers {e : HostEvent} (s : State) (he : e.isRead = true) :
    ∃ t, runEvent e s = .next t ∧
      t.R = s.R ∧ t.Q = s.Q ∧ t.ST = s.ST ∧ t.written = s.written := by
  cases e with
  | transact _ | reset => cases he
  | readR | readQ | readST => exact ⟨_, rfl, rfl, rfl, rfl, rfl⟩

/-- Settles O49: a commit and `IllegalOp` each overwrite what the same one before them wrote. -/
theorem transactionIdempotent : Obligations.TransactionIdempotent := by
  unfold Obligations.TransactionIdempotent
  refine ⟨fun s e => runEvent_read_keeps_registers s, fun x s => ?_⟩
  obtain ⟨-, -, r, hr⟩ | ⟨-, -, q, hq⟩ | ⟨-, op, hop⟩ := transact_cases_of_fam x s.shrMode
  · exact ⟨_, hr s rfl, ⟨rfl, rfl, rfl⟩, hr (s.commitValue r) rfl⟩
  · exact ⟨_, hq s, ⟨rfl, rfl, rfl⟩, hq (s.commitScalar q)⟩
  · exact ⟨_, hop s, ⟨rfl, rfl, rfl⟩, hop (s.raiseIllegalOp op)⟩

/-- Settles O50: a transaction that ends with OK commits, in every state of the build, one and the
same value or scalar. -/
theorem outputsDependOnInputsOnly : Obligations.OutputsDependOnInputsOnly := by
  unfold Obligations.OutputsDependOnInputsOnly
  intro x s s' u u' hmode hu hu' hok
  obtain ⟨-, -, r, hr⟩ | ⟨-, -, q, hq⟩ | ⟨-, op, hop⟩ := transact_cases_of_fam x s.shrMode
  · obtain rfl := Host.Outcome.next.inj (hu.symm.trans (hr s rfl))
    obtain rfl := Host.Outcome.next.inj (hu'.symm.trans (hr s' hmode.symm))
    exact ⟨rfl, rfl, rfl⟩
  · obtain rfl := Host.Outcome.next.inj (hu.symm.trans (hq s))
    obtain rfl := Host.Outcome.next.inj (hu'.symm.trans (hq s'))
    exact ⟨rfl, rfl, rfl⟩
  · obtain rfl := Host.Outcome.next.inj (hu.symm.trans (hop s))
    cases hok

end Sys2Proof.Machine
end

section
/-! The decoder and the encoder (30_encoding.md R60 to R64): an instruction is read from exactly
those transactions that are its encoding once the unread inputs are dropped, and every transaction
with an unassigned opcode is illegal. -/

namespace Sys2Proof

theorem decode_encode (i : Instr) : decode (encode i) = .instr i := by
  cases i <;> rfl

/-- Row by row of the decoder, what it drops is what the encoder passes as 0 (R61). -/
theorem dropUnused_of_decode_instr {t : Transaction} {i : Instr} (h : decode t = .instr i) :
    t.dropUnused = encode i := by
  obtain ⟨op, A, B, n⟩ := t
  unfold decode at h
  split at h <;> cases h <;> cases ‹op = _› <;> rfl

/-- The exception names the opcode that raised it (60_exceptions.md R180). -/
theorem OP_of_decode_illegalOp {t : Transaction} {op : BitVec 8} (h : decode t = .illegalOp op) :
    t.OP = op := by
  unfold decode at h
  split at h <;> cases h
  rfl

theorem wf_iff_exists_decode_instr (t : Transaction) :
    t.wf = true ↔ ∃ i, decode t = .instr i := by
  constructor
  · intro hwf
    cases h : decode t with
    | instr i => exact ⟨i, rfl⟩
    | illegalOp op => simp [wf_eq_false_of_decode_illegalOp h] at hwf
  · rintro ⟨i, h⟩
    exact wf_of_decode_instr h

theorem decode_of_wf_eq_false {t : Transaction} (hwf : t.wf = false) :
    decode t = .illegalOp t.OP := by
  cases h : decode t with
  | instr i => simp [wf_of_decode_instr h] at hwf
  | illegalOp op => rw [OP_of_decode_illegalOp h]

/-- The decoder reads no input that its opcode is not marked as reading (R61). -/
theorem decode_dropUnused (t : Transaction) : decode t.dropUnused = decode t := by
  cases h : decode t with
  | instr i => rw [dropUnused_of_decode_instr h, decode_encode]
  | illegalOp op =>
    have hwf : t.dropUnused.wf = false := (wf_eq_false_of_decode_illegalOp h : t.wf = false)
    rw [decode_of_wf_eq_false hwf, ← OP_of_decode_illegalOp h]
    rfl

theorem decode_eq_instr_iff (t : Transaction) (i : Instr) :
    decode t = .instr i ↔ t.dropUnused = encode i := by
  refine ⟨dropUnused_of_decode_instr, fun h => ?_⟩
  rw [← decode_dropUnused, h, decode_encode]

/-- Settles O1. -/
theorem decodeEncodeAgree : Obligations.DecodeEncodeAgree := by
  unfold Obligations.DecodeEncodeAgree
  exact ⟨decode_encode, decode_eq_instr_iff, wf_iff_exists_decode_instr⟩

theorem decode_eq_of_dropUnused_eq {t u : Transaction} (h : t.dropUnused = u.dropUnused) :
    decode t = decode u := by
  rw [← decode_dropUnused t, h, decode_dropUnused]

theorem decode_with_B {t : Transaction} (h : t.readsB = false) (B : LimbStore) :
    decode { t with B := B } = decode t := by
  have h' : { t with B := B }.readsB = false := h
  apply decode_eq_of_dropUnused_eq
  simp only [Transaction.dropUnused, h, h']
  rfl

theorem decode_with_SHAMT {t : Transaction} (h : t.OP ≠ 0x20#8) (n : BitVec 32) :
    decode { t with SHAMT := n } = decode t := by
  have hn : t.readsShamt = false := beq_false_of_ne h
  have hn' : { t with SHAMT := n }.readsShamt = false := hn
  apply decode_eq_of_dropUnused_eq
  simp only [Transaction.dropUnused, hn, hn']
  rfl

/-- The one-operand rows of the operand-use table (R61). -/
theorem readsB_of_oneOperand {op : BitVec 8}
    (h : op ∈ [0x02#8, 0x03#8, 0x13#8, 0x40#8, 0x41#8, 0x42#8]) (A B : LimbStore)
    (n : BitVec 32) : Transaction.readsB ⟨op, A, B, n⟩ = false := by
  have rows : ∀ op ∈ [0x02#8, 0x03#8, 0x13#8, 0x40#8, 0x41#8, 0x42#8],
      Transaction.readsB ⟨op, .zero, .zero, 0⟩ = false := by decide
  exact rows op h

/-- Settles O2: each opcode is a row of the decoder. -/
theorem specWordsDecode : Obligations.SpecWordsDecode := by
  unfold Obligations.SpecWordsDecode
  exact fun A B n => ⟨rfl, rfl, rfl, rfl, rfl⟩

end Sys2Proof

namespace Sys2Proof.Machine

theorem transact_congr {t u : Transaction} (h : decode t = decode u) (s : State) :
    transact t s = transact u s := by
  simp only [transact, h]

/-- Settles O4: the machine knows of a transaction only what the decoder reads. -/
theorem unmarkedInputsHaveNoEffect : Obligations.UnmarkedInputsHaveNoEffect := by
  unfold Obligations.UnmarkedInputsHaveNoEffect
  refine fun op A B B' n n' s => ⟨fun hop => ?two, fun hop => ?one, fun hop => ?shr⟩
  case two =>
    have hshr : op ≠ 0x20#8 := ne_of_mem_of_not_mem hop (by decide)
    exact transact_congr (decode_with_SHAMT (t := ⟨op, A, B, n'⟩) hshr n) s
  case one =>
    have hshr : op ≠ 0x20#8 := ne_of_mem_of_not_mem hop (by decide)
    have hB := readsB_of_oneOperand hop A B' n
    calc transact ⟨op, A, B, n⟩ s
        = transact ⟨op, A, B', n⟩ s := transact_congr (decode_with_B hB B) s
      _ = transact ⟨op, A, B', n'⟩ s :=
          transact_congr (decode_with_SHAMT (t := ⟨op, A, B', n'⟩) hshr n) s
  case shr =>
    subst hop
    exact transact_congr (decode_with_B (t := ⟨0x20#8, A, B', n⟩) rfl B) s

end Sys2Proof.Machine
end

section
/-! The unassigned opcodes (30_encoding.md R64; 60_exceptions.md R180). -/

namespace Sys2Proof

/-- The ranges of R64, as they exclude those of `opcodeAssigned`. -/
theorem opcodeAssigned_eq_false_iff : ∀ op : BitVec 8, opcodeAssigned op = false ↔
    (familyOf op = 0 ∧ 4 ≤ (functionOf op).toNat) ∨
    (familyOf op = 1 ∧ 4 ≤ (functionOf op).toNat) ∨
    (familyOf op = 2 ∧ 1 ≤ (functionOf op).toNat) ∨
    (familyOf op = 3 ∧ 6 ≤ (functionOf op).toNat) ∨
    (familyOf op = 4 ∧ 3 ≤ (functionOf op).toNat) ∨ 5 ≤ (familyOf op).toNat := by
  decide

/-- From 0x50 on, no family is assigned. -/
theorem opcodeAssigned_ofNat_of_ge {w : Nat} (hlo : 80 ≤ w) (hhi : w < 256) :
    opcodeAssigned (BitVec.ofNat 8 w) = false := by
  have hfam : 5 ≤ (familyOf (BitVec.ofNat 8 w)).toNat := by
    simp only [familyOf, BitVec.extractLsb'_toNat, BitVec.toNat_ofNat, Nat.shiftRight_eq_div_pow]
    omega
  simp only [opcodeAssigned_eq_false_iff, hfam, or_true]

/-- Of the five assigned families' 80 opcodes 62 are unassigned, and the other 176 opcodes all are. -/
theorem countP_unassigned :
    ((List.range 256).countP fun w => !opcodeAssigned (BitVec.ofNat 8 w)) = 238 := by
  have low : ((List.range 80).countP fun w => !opcodeAssigned (BitVec.ofNat 8 w)) = 62 := by
    decide
  have high : ((List.range 176).countP
      ((fun w => !opcodeAssigned (BitVec.ofNat 8 w)) ∘ (80 + ·))) = (List.range 176).length := by
    rw [List.countP_eq_length]
    intro w hw
    have hw := List.mem_range.mp hw
    simp [opcodeAssigned_ofNat_of_ge (w := 80 + w) (by omega) (by omega)]
  rw [show 256 = 80 + 176 from rfl, List.range_add, List.countP_append, List.countP_map, low, high,
    List.length_range]

end Sys2Proof

namespace Sys2Proof.Machine

/-- Settles O3: outside the table is outside the assigned ranges, where the decoder raises
`IllegalOp`. -/
theorem unassignedOpcodeIsIllegal : Obligations.UnassignedOpcodeIsIllegal := by
  unfold Obligations.UnassignedOpcodeIsIllegal
  intro assigned
  have outside : ∀ op, op ∉ assigned ↔ opcodeAssigned op = false := by decide
  refine ⟨fun t => ?ranges, ?count, fun t s hop => ?illegal⟩
  case ranges => exact (outside t.OP).trans (opcodeAssigned_eq_false_iff t.OP)
  case count => simpa only [outside, Bool.decide_eq_false] using countP_unassigned
  case illegal =>
    have hwf : t.wf = false := (outside t.OP).mp hop
    exact transact_illegalOp t s t.OP (decode_of_wf_eq_false hwf)

end Sys2Proof.Machine
end

section
/-! The shift amount (30_encoding.md R62). -/

namespace Sys2Proof.Machine

theorem shiftAmount_eq_toNat_mod (n : BitVec 32) : shiftAmount n = n.toNat % 256 := by
  simp only [shiftAmount, BitVec.extractLsb'_toNat, Nat.shiftRight_zero]

/-- The sign of `SHAMT` does not matter: `2^32` is a multiple of 256. -/
theorem shiftAmount_eq_toInt_mod (n : BitVec 32) : shiftAmount n = (n.toInt % 256).toNat := by
  rw [shiftAmount_eq_toNat_mod, BitVec.toInt_eq_toNat_cond]
  split <;> omega

/-- Settles O7: bits 7 to 0 are the residue modulo 256, and only SHR reads `SHAMT`. -/
theorem shiftAmountMod256 : Obligations.ShiftAmountMod256 := by
  unfold Obligations.ShiftAmountMod256
  refine ⟨fun n => ⟨shiftAmount_eq_toInt_mod n, ?bound⟩, fun n m h => congrArg BitVec.toNat h,
    by decide, fun op A B n m hop => decode_with_SHAMT (t := ⟨op, A, B, m⟩) hop n⟩
  case bound =>
    rw [shiftAmount_eq_toNat_mod]
    omega

end Sys2Proof.Machine
end

section
/-! The assembler's lines on host variables (30_encoding.md R66, R68): the transaction of each line,
and what the pseudo-instructions write. -/

namespace Sys2Proof.Machine

theorem assembleTransaction_two_var (m : TwoOperand) (a b : LimbStore) :
    assembleTransaction (.two m (.var a) (.var b)) = some (encode (twoOperandInstr m a b)) := rfl

theorem assembleTransaction_one_var (m : OneOperand) (a : LimbStore) :
    assembleTransaction (.one m (.var a)) = some (encode (oneOperandInstr m a)) := rfl

theorem assembleTransaction_shift_var (a : LimbStore) (n : BitVec 32) :
    assembleTransaction (.shift (.var a) (.var n)) = some (encode (.shr a n)) := rfl

/-- Settles O37: each line is the encoding of its mnemonic's instruction, row by row. -/
theorem assemblerOperandOrder : Obligations.AssemblerOperandOrder := by
  unfold Obligations.AssemblerOperandOrder
  refine ⟨fun a b => ?two, fun a => ?one, fun a n => ?shift⟩
  case two =>
    simp only [assembleTransaction_two_var]
    exact ⟨rfl, rfl, rfl, rfl, rfl, rfl, rfl, rfl, rfl, rfl, rfl⟩
  case one =>
    simp only [assembleTransaction_one_var]
    exact ⟨rfl, rfl, rfl, rfl, rfl, rfl⟩
  case shift => exact assembleTransaction_shift_var a n

/-- A truth value is written as 1 or 0 (43_compare.md R140). -/
theorem truthScalar_of_iff {p : Bool} {P : Prop} [Decidable P] (h : p = true ↔ P) :
    truthScalar p = if P then 1 else 0 := by
  simp only [truthScalar, h]

/-- Limb-wise equality is equality of the limb stores (43_compare.md R141). -/
theorem eqTest_eq_true_iff (a b : LimbStore) : eqTest a b = true ↔ a = b := by
  simp only [eqTest, Bool.and_eq_true, beq_iff_eq, and_assoc]
  constructor
  · rintro ⟨h0, h1, h2, h3⟩
    exact LimbStore.ext_limbs a b h0 h1 h2 h3
  · rintro rfl
    exact ⟨rfl, rfl, rfl, rfl⟩

theorem neTest_eq_true_iff (a b : LimbStore) : neTest a b = true ↔ a ≠ b := by
  rw [neTest, Bool.not_eq_true', ← Bool.not_eq_true, eqTest_eq_true_iff]

theorem ne_zero_iff_exists_limb (a : LimbStore) :
    a ≠ .zero ↔ a.w0 ≠ 0 ∨ a.w1 ≠ 0 ∨ a.w2 ≠ 0 ∨ a.w3 ≠ 0 := by
  obtain ⟨w0, w1, w2, w3⟩ := a
  simp only [LimbStore.zero, ne_eq, LimbStore.mk.injEq, not_and_or]

/-- What EQ does in every state (43_compare.md R142). -/
theorem exec_eq (a b : LimbStore) (s : State) :
    exec (.eq a b) s = .next (s.commitScalar (if a = b then 1 else 0)) := by
  rw [← truthScalar_of_iff (eqTest_eq_true_iff a b)]
  rfl

/-- What NE does in every state (43_compare.md R143). -/
theorem exec_ne (a b : LimbStore) (s : State) :
    exec (.ne a b) s = .next (s.commitScalar (if a ≠ b then 1 else 0)) := by
  rw [← truthScalar_of_iff (neTest_eq_true_iff a b)]
  rfl

/-- Settles O35: each expands to one compare, POS or NOT. -/
theorem pseudoInstructions : Obligations.PseudoInstructions := by
  unfold Obligations.PseudoInstructions
  refine fun a s => ⟨⟨rfl, ?bool⟩, ⟨rfl, exec_eq a .zero s⟩, ⟨rfl, rfl⟩, ⟨rfl, rfl⟩⟩
  case bool =>
    simp only [← ne_zero_iff_exists_limb]
    exact exec_ne a .zero s

end Sys2Proof.Machine
end

section
/-! The carry and borrow chains as numbers (40_arith.md R81 to R84): ADD, SUB and NEG are addition,
subtraction and negation modulo `2^256`, and what each of the four writes. -/

namespace Sys2Proof.Machine

/-- The carry chain with a carry into bit 0: ADD passes 0, and NEG passes its one (R81, R83). -/
def addWithCarryIn (c : Nat) (a b : LimbStore) : LimbStore :=
  let t0 := addLimb a.w0 b.w0 c
  let t1 := addLimb a.w1 b.w1 t0.carry
  let t2 := addLimb a.w2 b.w2 t1.carry
  let t3 := addLimb a.w3 b.w3 t2.carry
  ⟨t0.limb, t1.limb, t2.limb, t3.limb⟩

theorem addValue_eq_addWithCarryIn (a b : LimbStore) : addValue a b = addWithCarryIn 0 a b := rfl

theorem negValue_eq_addWithCarryIn (a : LimbStore) :
    negValue a = addWithCarryIn 1 (notValue a) .zero := rfl

/-- The chain's value is the exact sum but for the carry out of bit 255. -/
theorem addWithCarryIn_sum (c : Nat) (a b : LimbStore) :
    ∃ k, (addWithCarryIn c a b).val + k * 2 ^ 256 = a.val + b.val + c := by
  unfold addWithCarryIn
  extract_lets t0 t1 t2 t3
  have sum0 : t0.limb.toNat + t0.carry * 2 ^ 64 = _ := addLimb_sum a.w0 b.w0 c
  have sum1 : t1.limb.toNat + t1.carry * 2 ^ 64 = _ := addLimb_sum a.w1 b.w1 t0.carry
  have sum2 : t2.limb.toNat + t2.carry * 2 ^ 64 = _ := addLimb_sum a.w2 b.w2 t1.carry
  have sum3 : t3.limb.toNat + t3.carry * 2 ^ 64 = _ := addLimb_sum a.w3 b.w3 t2.carry
  refine ⟨t3.carry, ?_⟩
  simp only [LimbStore.val]
  linear_combination sum0 + 2 ^ 64 * sum1 + 2 ^ 128 * sum2 + 2 ^ 192 * sum3

theorem addWithCarryIn_val (c : Nat) (a b : LimbStore) :
    (addWithCarryIn c a b).val = (a.val + b.val + c) % 2 ^ 256 := by
  obtain ⟨k, hk⟩ := addWithCarryIn_sum c a b
  rw [← hk, Nat.add_mul_mod_self_right, Nat.mod_eq_of_lt (LimbStore.val_lt _)]

/-- The limb-wise complement is the complement to `2^256 - 1`. -/
theorem notValue_val (a : LimbStore) : (notValue a).val = 2 ^ 256 - 1 - a.val := by
  have := a.w0.isLt
  have := a.w1.isLt
  have := a.w2.isLt
  have := a.w3.isLt
  simp only [notValue, LimbStore.val, BitVec.toNat_not]
  omega

theorem zero_val : LimbStore.zero.val = 0 := rfl

theorem addValue_val (a b : LimbStore) : (addValue a b).val = (a.val + b.val) % 2 ^ 256 := by
  rw [addValue_eq_addWithCarryIn, addWithCarryIn_val, Nat.add_zero]

theorem negValue_val (a : LimbStore) : (negValue a).val = (2 ^ 256 - a.val) % 2 ^ 256 := by
  have complement_plus_one : 2 ^ 256 - 1 - a.val + 0 + 1 = 2 ^ 256 - a.val := by
    have := a.val_lt
    omega
  rw [negValue_eq_addWithCarryIn, addWithCarryIn_val, notValue_val, zero_val, complement_plus_one]

/-- The borrow chain's value is the exact difference but for the borrow out of bit 255, written
without subtraction. -/
theorem subValue_difference (a b : LimbStore) :
    ∃ k, (subValue a b).val + b.val = a.val + k * 2 ^ 256 := by
  unfold subValue
  extract_lets t0 t1 t2 t3
  have diff0 : t0.limb.toNat + _ + 0 = _ + t0.carry * 2 ^ 64 :=
    subLimb_difference a.w0 b.w0 0 (Nat.zero_le 1)
  have diff1 : t1.limb.toNat + _ + t0.carry = _ + t1.carry * 2 ^ 64 :=
    subLimb_difference a.w1 b.w1 t0.carry (subLimb_borrow_le _ _ _)
  have diff2 : t2.limb.toNat + _ + t1.carry = _ + t2.carry * 2 ^ 64 :=
    subLimb_difference a.w2 b.w2 t1.carry (subLimb_borrow_le _ _ _)
  have diff3 : t3.limb.toNat + _ + t2.carry = _ + t3.carry * 2 ^ 64 :=
    subLimb_difference a.w3 b.w3 t2.carry (subLimb_borrow_le _ _ _)
  refine ⟨t3.carry, ?_⟩
  simp only [LimbStore.val]
  linear_combination diff0 + 2 ^ 64 * diff1 + 2 ^ 128 * diff2 + 2 ^ 192 * diff3

theorem subValue_val (a b : LimbStore) :
    ((subValue a b).val : Int) = ((a.val : Int) - b.val) % 2 ^ 256 := by
  obtain ⟨k, hk⟩ := subValue_difference a b
  have := (subValue a b).val_lt
  omega

theorem addValue_eq_lstore (a b : LimbStore) :
    addValue a b = lstore ((a.val + b.val) % 2 ^ 256) := by
  rw [← addValue_val, lstore_val]

theorem subValue_eq_lstore (a b : LimbStore) :
    subValue a b = lstore (((a.val : Int) - b.val) % 2 ^ 256).toNat := by
  rw [← subValue_val, Int.toNat_natCast, lstore_val]

theorem negValue_eq_lstore (a : LimbStore) :
    negValue a = lstore ((2 ^ 256 - a.val) % 2 ^ 256) := by
  rw [← negValue_val, lstore_val]

/-- Settles O8: the carry chain's value is the sum modulo `2^256`. -/
theorem addIsSumModulo : Obligations.AddIsSumModulo := by
  unfold Obligations.AddIsSumModulo
  intro A B n s
  rw [← addValue_eq_lstore]
  exact ⟨rfl, rfl⟩

/-- Settles O9: the borrow chain's value is the difference modulo `2^256`. -/
theorem subIsDifferenceModulo : Obligations.SubIsDifferenceModulo := by
  unfold Obligations.SubIsDifferenceModulo
  intro A B n s
  rw [← subValue_eq_lstore]
  exact ⟨rfl, rfl⟩

/-- Settles O10: complement plus one is the negation modulo `2^256`. -/
theorem negIsComplementPlusOne : Obligations.NegIsComplementPlusOne := by
  unfold Obligations.NegIsComplementPlusOne
  intro A B n s
  rw [← negValue_eq_lstore]
  exact ⟨rfl, rfl⟩

/-- Settles O11: POS commits its operand. -/
theorem posIsIdentity : Obligations.PosIsIdentity := by
  unfold Obligations.PosIsIdentity
  exact fun A B n s => ⟨rfl, rfl⟩

end Sys2Proof.Machine
end

section
/-! The arithmetic laws (40_arith.md R85): each is the law of the residues modulo `2^256`. -/

namespace Sys2Proof.Machine

theorem addValue_comm (a b : LimbStore) : addValue a b = addValue b a := by
  apply LimbStore.val_inj
  rw [addValue_val, addValue_val, Nat.add_comm]

theorem addValue_assoc (a b c : LimbStore) :
    addValue (addValue a b) c = addValue a (addValue b c) := by
  apply LimbStore.val_inj
  simp only [addValue_val]
  rw [Nat.mod_add_mod, Nat.add_mod_mod, Nat.add_assoc]

theorem addValue_negValue_self (a : LimbStore) : addValue a (negValue a) = .zero := by
  apply LimbStore.val_inj
  rw [addValue_val, negValue_val, zero_val, Nat.add_mod_mod,
    Nat.add_sub_cancel' a.val_lt.le, Nat.mod_self]

theorem subValue_eq_addValue_negValue (a b : LimbStore) :
    subValue a b = addValue a (negValue b) := by
  apply LimbStore.val_inj
  have difference := subValue_val a b
  have := b.val_lt
  rw [addValue_val, negValue_val]
  omega

theorem subValue_self (a : LimbStore) : subValue a a = .zero := by
  rw [subValue_eq_addValue_negValue, addValue_negValue_self]

theorem negValue_negValue (a : LimbStore) : negValue (negValue a) = a := by
  apply LimbStore.val_inj
  have := a.val_lt
  rw [negValue_val, negValue_val]
  omega

/-- Settles O12. -/
theorem arithmeticLaws : Obligations.ArithmeticLaws := by
  unfold Obligations.ArithmeticLaws
  exact ⟨addValue_negValue_self, subValue_eq_addValue_negValue, by decide, addValue_comm,
    addValue_assoc, subValue_self, negValue_negValue, fun _ => rfl⟩

end Sys2Proof.Machine
end

section
/-! Sums and differences taken tier by tier (40_arith.md R86): whatever the widths, the result is the
residue modulo two to the sum of the widths. -/

namespace Sys2Proof.Machine

/-- A low digit in base `m` is not touched by a reduction modulo a multiple of `m`. -/
theorem emod_mul_of_digit {d m : Int} (hd : 0 ≤ d) (hdm : d < m) (x n : Int) :
    (d + m * x) % (m * n) = d + m * (x % n) := by
  have hquot : (d + m * x) / (m * n) = x / n := by
    rw [← Int.ediv_ediv_of_nonneg (hd.trans hdm.le),
      Int.add_mul_ediv_left _ _ (hd.trans_lt hdm).ne', Int.ediv_eq_zero_of_lt hd hdm, zero_add]
  rw [Int.emod_def, Int.emod_def, hquot]
  ring

theorem tieredSum_eq (tiers : List Nat) (a b c : Nat) :
    tieredSum tiers a b c = (a + b + c) % 2 ^ tiers.sum := by
  induction tiers generalizing a b c with
  | nil => rw [tieredSum, List.sum_nil, pow_zero, Nat.mod_one]
  | cons w ws ih =>
    have digits : a + b + c =
        a % 2 ^ w + b % 2 ^ w + c + 2 ^ w * (a / 2 ^ w + b / 2 ^ w) := by
      linear_combination -Nat.mod_add_div a (2 ^ w) - Nat.mod_add_div b (2 ^ w)
    rw [tieredSum, ih, List.sum_cons, pow_add, Nat.mod_mul, digits, Nat.add_mul_mod_self_left,
      Nat.add_mul_div_left _ _ (Nat.two_pow_pos w), Nat.add_comm (_ / _) (_ + _)]

/-- A tier's difference is a digit `d`, and a borrow `k` from the next tier. -/
theorem tieredDifference_cons (w : Nat) (ws : List Nat) (a b : Nat) {c : Nat} (hc : c ≤ 1) :
    ∃ d k, d < 2 ^ w ∧ k ≤ 1 ∧ d + b % 2 ^ w + c = a % 2 ^ w + 2 ^ w * k ∧
      tieredDifference (w :: ws) a b c =
        d + 2 ^ w * tieredDifference ws (a / 2 ^ w) (b / 2 ^ w) k := by
  have ha := Nat.mod_lt a (Nat.two_pow_pos w)
  have hb := Nat.mod_lt b (Nat.two_pow_pos w)
  rw [tieredDifference]
  split
  · exact ⟨_, 1, by omega, le_rfl, by omega, rfl⟩
  · exact ⟨_, 0, by omega, Nat.zero_le 1, by omega, rfl⟩

theorem tieredDifference_eq (tiers : List Nat) (a b : Nat) {c : Nat} (hc : c ≤ 1) :
    (tieredDifference tiers a b c : Int) = ((a : Int) - b - c) % 2 ^ tiers.sum := by
  induction tiers generalizing a b c with
  | nil => rw [tieredDifference, List.sum_nil, pow_zero, Int.emod_one, Nat.cast_zero]
  | cons w ws ih =>
    obtain ⟨d, k, hd, hk, tier, hcons⟩ := tieredDifference_cons w ws a b hc
    have digits : (a : Int) - b - c =
        d + 2 ^ w * (((a / 2 ^ w : Nat) : Int) - ((b / 2 ^ w : Nat) : Int) - k) := by
      have ha := Nat.mod_add_div a (2 ^ w)
      have hb := Nat.mod_add_div b (2 ^ w)
      zify at tier ha hb ⊢
      linear_combination -ha + hb - tier
    rw [hcons, Nat.cast_add, Nat.cast_mul, ih _ _ hk, List.sum_cons, pow_add, digits,
      emod_mul_of_digit (Int.natCast_nonneg d) (by exact_mod_cast hd), Nat.cast_pow, Nat.cast_ofNat]

/-- Settles O13: the tiers of any grouping, and the two halves, give the residue that the chain of
limbs gives. -/
theorem halfAdditionsAgree : Obligations.HalfAdditionsAgree := by
  unfold Obligations.HalfAdditionsAgree
  refine ⟨fun tiers A B hsum => ⟨?sum, ?difference⟩, fun A B lo hi hlo hhi => ?halves⟩
  case sum => rw [tieredSum_eq, hsum, Nat.add_zero, addValue_eq_lstore]
  case difference =>
    have difference := tieredDifference_eq tiers A.val B.val (Nat.zero_le 1)
    rw [hsum, Nat.cast_zero, sub_zero, ← subValue_val, Nat.cast_inj] at difference
    rw [difference, lstore_val]
  case halves =>
    have sum : A.val + B.val = lo + 2 ^ 128 * hi := by
      rw [hlo, hhi, LimbStore.val, LimbStore.val]
      ring
    rw [addValue_eq_lstore, sum]
    congr 1
    omega

end Sys2Proof.Machine
end

section
/-! The limb-wise gates (41_logic.md R100 to R104): a gate on each limb pair is that gate on each pair
of bits of the values, and what each of the four operations writes. -/

namespace Sys2Proof.Machine

theorem limbwise_w (gate : Limb → Limb → Limb) (a b : LimbStore) {i : Nat} (hi : i < 4) :
    (limbwise gate a b).w i = gate (a.w i) (b.w i) := by
  interval_cases i <;> rfl

/-- A gate that acts bit by bit on limbs acts, limb-wise, bit by bit on values (R100). -/
theorem limbwise_testBit {gate : Limb → Limb → Limb} {op : Bool → Bool → Bool}
    (hgate : ∀ x y k, (gate x y).getLsbD k = op (x.getLsbD k) (y.getLsbD k))
    (hop : op false false = false) (a b : LimbStore) (k : Nat) :
    (limbwise gate a b).val.testBit k = op (a.val.testBit k) (b.val.testBit k) := by
  rcases lt_or_ge k 256 with low | high
  · rw [bitNumbering _ k low, bitNumbering _ k low, bitNumbering _ k low,
      limbwise_w gate a b (by omega), hgate]
  · have no_bit (L : LimbStore) : L.val.testBit k = false :=
      Nat.testBit_lt_two_pow (L.val_lt.trans_le (Nat.pow_le_pow_right (by decide) high))
    rw [no_bit, no_bit, no_bit, hop]

theorem limbwise_val {gate : Limb → Limb → Limb} {natGate : Nat → Nat → Nat}
    {op : Bool → Bool → Bool}
    (hgate : ∀ x y k, (gate x y).getLsbD k = op (x.getLsbD k) (y.getLsbD k))
    (hnat : ∀ m n k, (natGate m n).testBit k = op (m.testBit k) (n.testBit k))
    (hop : op false false = false) (a b : LimbStore) :
    (limbwise gate a b).val = natGate a.val b.val := by
  apply Nat.eq_of_testBit_eq
  intro k
  rw [limbwise_testBit hgate hop, hnat]

theorem andValue_val (a b : LimbStore) : (andValue a b).val = a.val &&& b.val :=
  limbwise_val (fun _ _ _ => BitVec.getLsbD_and) Nat.testBit_and rfl a b

theorem orValue_val (a b : LimbStore) : (orValue a b).val = a.val ||| b.val :=
  limbwise_val (fun _ _ _ => BitVec.getLsbD_or) Nat.testBit_or rfl a b

theorem xorValue_val (a b : LimbStore) : (xorValue a b).val = a.val ^^^ b.val :=
  limbwise_val (fun _ _ _ => BitVec.getLsbD_xor) Nat.testBit_xor rfl a b

/-- Settles O14: the limb-wise AND has the bits of the AND of the values. -/
theorem andIsBitwise : Obligations.AndIsBitwise := by
  unfold Obligations.AndIsBitwise
  exact fun A B n s => ⟨rfl, andValue A B, rfl, andValue_val A B, rfl⟩

/-- Settles O15: the limb-wise OR has the bits of the OR of the values. -/
theorem orIsBitwise : Obligations.OrIsBitwise := by
  unfold Obligations.OrIsBitwise
  exact fun A B n s => ⟨rfl, orValue A B, rfl, orValue_val A B, rfl⟩

/-- Settles O16: the limb-wise XOR has the bits of the XOR of the values. -/
theorem xorIsBitwise : Obligations.XorIsBitwise := by
  unfold Obligations.XorIsBitwise
  exact fun A B n s => ⟨rfl, xorValue A B, rfl, xorValue_val A B, rfl⟩

/-- Settles O17: the limb-wise complement is the complement to `2^256 - 1`. -/
theorem notIsComplement : Obligations.NotIsComplement := by
  unfold Obligations.NotIsComplement
  exact fun A B n s => ⟨rfl, notValue A, rfl, notValue_val A, rfl⟩

end Sys2Proof.Machine
end

section
/-! The logic laws (41_logic.md R105): each is the law of one limb, which holds in every limb. -/

namespace Sys2Proof.Machine

theorem limbwise_comm {gate : Limb → Limb → Limb} (h : ∀ x y, gate x y = gate y x)
    (a b : LimbStore) : limbwise gate a b = limbwise gate b a :=
  LimbStore.ext_limbs _ _ (h _ _) (h _ _) (h _ _) (h _ _)

theorem limbwise_assoc {gate : Limb → Limb → Limb}
    (h : ∀ x y z, gate (gate x y) z = gate x (gate y z)) (a b c : LimbStore) :
    limbwise gate (limbwise gate a b) c = limbwise gate a (limbwise gate b c) :=
  LimbStore.ext_limbs _ _ (h _ _ _) (h _ _ _) (h _ _ _) (h _ _ _)

theorem limbwise_notValue_self {gate : Limb → Limb → Limb} {c : Limb}
    (h : ∀ x, gate x (~~~x) = c) (a : LimbStore) : limbwise gate a (notValue a) = ⟨c, c, c, c⟩ :=
  LimbStore.ext_limbs _ _ (h _) (h _) (h _) (h _)

/-- De Morgan's law of a gate and its dual. -/
theorem notValue_limbwise {gate dual : Limb → Limb → Limb}
    (h : ∀ x y, ~~~(gate x y) = dual (~~~x) (~~~y)) (a b : LimbStore) :
    notValue (limbwise gate a b) = limbwise dual (notValue a) (notValue b) :=
  LimbStore.ext_limbs _ _ (h _ _) (h _ _) (h _ _) (h _ _)

theorem notValue_notValue (a : LimbStore) : notValue (notValue a) = a :=
  LimbStore.ext_limbs _ _ BitVec.not_not BitVec.not_not BitVec.not_not BitVec.not_not

/-- Settles O18. -/
theorem logicLaws : Obligations.LogicLaws := by
  unfold Obligations.LogicLaws
  refine ⟨notValue_notValue, ?contradiction, ?excludedMiddle, ?commutative, ?associative, ?deMorgan⟩
  case contradiction => exact limbwise_notValue_self BitVec.and_not_self
  case excludedMiddle => exact limbwise_notValue_self BitVec.or_not_self
  case commutative =>
    exact fun a b => ⟨limbwise_comm BitVec.and_comm a b, limbwise_comm BitVec.or_comm a b,
      limbwise_comm BitVec.xor_comm a b⟩
  case associative =>
    exact fun a b c => ⟨limbwise_assoc BitVec.and_assoc a b c, limbwise_assoc BitVec.or_assoc a b c,
      limbwise_assoc BitVec.xor_assoc a b c⟩
  case deMorgan =>
    exact fun a b => ⟨notValue_limbwise (fun _ _ => BitVec.not_and) a b,
      notValue_limbwise (fun _ _ => BitVec.not_or) a b⟩

end Sys2Proof.Machine
end

section
/-! SHR's result as a number (42_shift.md R121, R122): a LOGICAL shift moves whole limbs down and
then shifts by an amount within one limb, so its value is `val(A) div 2^s`; DOC_LITERAL agrees with
it up to 64. -/

namespace Sys2Proof.Machine

/-- With nothing above it, a limb is only shifted down. -/
@[simp] theorem funnel_zero_right (x : Limb) (n : Nat) : funnel x 0#64 n = shr64 x n := by
  simp [funnel, shl64]

@[simp] theorem shr64_zero_left (n : Nat) : shr64 0#64 n = 0#64 := by
  simp [shr64]

/-- Limbs `i` and `i + 1` are digit `i` of the value and the one above it, in base `2^64`. -/
theorem w_pair_toNat (a : LimbStore) {i : Nat} (hi : i < 4) :
    (a.w i).toNat + (a.w (i + 1)).toNat * 2 ^ 64 = a.val / 2 ^ (64 * i) % 2 ^ 128 := by
  have := a.w0.isLt
  have := a.w1.isLt
  have := a.w2.isLt
  have := a.w3.isLt
  unfold LimbStore.val
  interval_cases i <;> simp only [LimbStore.w, BitVec.ofNat_eq_ofNat, BitVec.toNat_ofNat] <;> omega

/-- Where two limbs are the low 128 bits of `v`, shifting them gives the low limb of `v div 2^n`. -/
theorem funnel_eq_ofNat {lo hi : Limb} {v n : Nat} (h1 : 1 ≤ n) (h64 : n ≤ 64)
    (hv : lo.toNat + hi.toNat * 2 ^ 64 = v % 2 ^ 128) :
    funnel lo hi n = BitVec.ofNat 64 (v / 2 ^ n) := by
  have split_width : 2 ^ 128 = 2 ^ n * 2 ^ (128 - n) := by
    rw [← pow_add]
    congr 1
    omega
  have limb_dvd : 2 ^ 64 ∣ 2 ^ (128 - n) := pow_dvd_pow 2 (by omega)
  apply BitVec.eq_of_toNat_eq
  rw [funnel_toNat lo hi n h1 h64, hv, BitVec.toNat_ofNat, split_width,
    Nat.mod_mul_right_div_self, Nat.mod_mod_of_dvd _ limb_dvd]

/-- Range 1 of R121 is floor division: each limb comes from the pair of limbs at its position. -/
theorem shrRange1_eq_lstore (a : LimbStore) {n : Nat} (h1 : 1 ≤ n) (h64 : n ≤ 64) :
    shrRange1 a n = lstore (a.val / 2 ^ n) := by
  have limb {i : Nat} (hi : i < 4) :
      funnel (a.w i) (a.w (i + 1)) n = BitVec.ofNat 64 (a.val / 2 ^ n / 2 ^ (64 * i)) := by
    rw [funnel_eq_ofNat h1 h64 (w_pair_toNat a hi), Nat.div_right_comm]
  have top : shr64 a.w3 n = funnel (a.w 3) (a.w 4) n := (funnel_zero_right a.w3 n).symm
  apply LimbStore.ext_limbs
  · exact (limb (i := 0) (by decide)).trans (by simp)
  · exact limb (i := 1) (by decide)
  · exact limb (i := 2) (by decide)
  · exact top.trans (limb (i := 3) (by decide))

/-- The store with its lowest `q` limbs dropped and zero limbs above. -/
def dropLimbs (q : Nat) (a : LimbStore) : LimbStore :=
  ⟨a.w q, a.w (q + 1), a.w (q + 2), a.w (q + 3)⟩

theorem dropLimbs_val (a : LimbStore) {q : Nat} (hq : q < 4) :
    (dropLimbs q a).val = a.val / 2 ^ (64 * q) := by
  have := a.w0.isLt
  have := a.w1.isLt
  have := a.w2.isLt
  have := a.w3.isLt
  unfold LimbStore.val
  interval_cases q <;>
    simp only [dropLimbs, LimbStore.w, BitVec.ofNat_eq_ofNat, BitVec.toNat_ofNat] <;> omega

/-- Each range of R121 drops whole limbs and then shifts by range 1's formula. -/
theorem shrLogical_eq_shrRange1_dropLimbs (a : LimbStore) {s : Nat} (h0 : s ≠ 0) (h256 : s ≤ 256) :
    ∃ q n, (q < 4 ∧ 1 ≤ n ∧ n ≤ 64 ∧ s = 64 * q + n) ∧
      shrLogical a s = shrRange1 (dropLimbs q a) n := by
  simp only [shrLogical, if_neg h0]
  split_ifs with h64 h128 h192
  · exact ⟨0, s, by omega, rfl⟩
  · exact ⟨1, s - 64, by omega, by simp [shrRange1, dropLimbs, LimbStore.w]⟩
  · exact ⟨2, s - 128, by omega, by simp [shrRange1, dropLimbs, LimbStore.w]⟩
  · exact ⟨3, s - 192, by omega, by simp [shrRange1, dropLimbs, LimbStore.w]⟩

/-- The LOGICAL shift is floor division (R121). -/
theorem shrLogical_eq_lstore (a : LimbStore) {s : Nat} (hs : s ≤ 256) :
    shrLogical a s = lstore (a.val / 2 ^ s) := by
  rcases eq_or_ne s 0 with rfl | h0
  · rw [pow_zero, Nat.div_one, lstore_val]
    rfl
  · obtain ⟨q, n, ⟨hq, h1, h64, rfl⟩, hshr⟩ := shrLogical_eq_shrRange1_dropLimbs a h0 hs
    rw [hshr, shrRange1_eq_lstore _ h1 h64, dropLimbs_val a hq, Nat.div_div_eq_div_mul, ← pow_add]

theorem shrDocLiteral_eq_shrLogical_of_le (a : LimbStore) {s : Nat} (hs : s ≤ 64) :
    shrDocLiteral a s = shrLogical a s := by
  simp only [shrDocLiteral, shrLogical, if_pos hs]

theorem shiftAmount_lt (n : BitVec 32) : shiftAmount n < 256 := (n.extractLsb' 0 8).isLt

theorem shrValue_logical_eq_lstore (a : LimbStore) (n : BitVec 32) :
    shrValue .logical a n = lstore (a.val / 2 ^ shiftAmount n) :=
  shrLogical_eq_lstore a (shiftAmount_lt n).le

theorem shrValue_logical_val (a : LimbStore) (n : BitVec 32) :
    (shrValue .logical a n).val = a.val / 2 ^ shiftAmount n := by
  rw [shrValue_logical_eq_lstore, val_lstore ((Nat.div_le_self _ _).trans_lt a.val_lt)]

/-- What SHR does in every state of a build (R120). -/
theorem exec_shr {mode : ShrMode} (a : LimbStore) (n : BitVec 32) {s : State}
    (h : s.shrMode = mode) : exec (.shr a n) s = .next (s.commitValue (shrValue mode a n)) := by
  subst h
  rfl

/-- Settles O19: dropping whole limbs and shifting the rest is floor division. -/
theorem shrLogicalIsFloorDivision : Obligations.ShrLogicalIsFloorDivision := by
  unfold Obligations.ShrLogicalIsFloorDivision
  refine fun A B n s => ⟨rfl, fun hmode => ?_⟩
  rw [exec_shr A n hmode, shrValue_logical_eq_lstore, shiftAmount_eq_toInt_mod]
  rfl

/-- The result of R122 by range. -/
theorem shrDocLiteral_eq (a : LimbStore) (k : Nat) :
    shrDocLiteral a k =
      if k ≤ 64 then lstore (a.val / 2 ^ k)
      else if k ≤ 128 then ⟨a.w1, a.w2, shr64 a.w3 (128 - k), 0⟩
      else if k ≤ 192 then ⟨a.w2, shr64 a.w3 (192 - k), 0, 0⟩
      else ⟨shr64 a.w3 (256 - k), 0, 0, 0⟩ := by
  split_ifs with h64 h128 h192
  · rw [shrDocLiteral_eq_shrLogical_of_le a h64, shrLogical_eq_lstore a (by omega)]
  all_goals
    have h0 : k ≠ 0 := by omega
    simp only [shrDocLiteral, *, if_true, if_false]

/-- Settles O20: up to 64 the formulas are the LOGICAL ones, above they are the source's as they
stand. -/
theorem shrDocLiteralFormulas : Obligations.ShrDocLiteralFormulas := by
  unfold Obligations.ShrDocLiteralFormulas
  refine fun A B n s k => ⟨rfl, fun hmode hk => ?_⟩
  have hvalue : shrValue .docLiteral A n = shrDocLiteral A k := by
    rw [hk, ← shiftAmount_eq_toInt_mod]
    rfl
  rw [exec_shr A n hmode, hvalue, shrDocLiteral_eq]
  rfl

end Sys2Proof.Machine
end

section
/-! The shift laws (42_shift.md R123) and two LOGICAL shifts in a row (R121). -/

namespace Sys2Proof.Machine

theorem shrValue_congr {n m : BitVec 32} (h : shiftAmount n = shiftAmount m) (mode : ShrMode)
    (a : LimbStore) : shrValue mode a n = shrValue mode a m := by
  simp only [shrValue, h]

theorem shrValue_zero (mode : ShrMode) (a : LimbStore) : shrValue mode a 0 = a := by
  cases mode <;> rfl

/-- The host's amount is reduced modulo 256, whatever its sign. -/
theorem shiftAmount_ofInt (k : Int) : shiftAmount (BitVec.ofInt 32 k) = (k % 256).toNat := by
  rw [shiftAmount_eq_toNat_mod, BitVec.toNat_ofInt]
  omega

theorem shiftAmount_ofNat (k : Nat) : shiftAmount (BitVec.ofNat 32 k) = k % 256 := by
  rw [shiftAmount_eq_toNat_mod, BitVec.toNat_ofNat]
  omega

/-- No bit of a limb is set above its leading 1. -/
theorem toNat_lt_two_pow_clz64 (x : Limb) : x.toNat < 2 ^ (64 - clz64 x) := by
  obtain ⟨above_clear, -⟩ := clz64_spec x
  apply Nat.lt_pow_two_of_testBit
  intro i hi
  rw [BitVec.testBit_toNat]
  rcases lt_or_ge i 64 with inside | outside
  · have := above_clear (63 - i) (by omega)
    rwa [show 63 - (63 - i) = i by omega] at this
  · exact BitVec.getLsbD_of_ge x i outside

/-- The highest nonzero limb bounds the value, whatever is below it. -/
theorem add_limb_mul_lt_two_pow {low e k : Nat} (x : Limb) (hlow : low < 2 ^ e)
    (hk : e + (64 - clz64 x) ≤ k) : low + x.toNat * 2 ^ e < 2 ^ k := by
  calc low + x.toNat * 2 ^ e
      < (x.toNat + 1) * 2 ^ e := by rw [Nat.add_mul, Nat.one_mul]; omega
    _ ≤ 2 ^ (64 - clz64 x) * 2 ^ e := Nat.mul_le_mul_right _ (toNat_lt_two_pow_clz64 x)
    _ = 2 ^ (e + (64 - clz64 x)) := by rw [pow_add, Nat.mul_comm]
    _ ≤ 2 ^ k := Nat.pow_le_pow_right (by decide) hk

/-- A value is below two to its bit length (R123). -/
theorem val_lt_two_pow_bitlen (a : LimbStore) : a.val < 2 ^ (256 - clzCount a) := by
  have := a.w0.isLt
  have := a.w1.isLt
  have := a.w2.isLt
  have := clz64_le a.w3
  have := clz64_le a.w2
  have := clz64_le a.w1
  have := clz64_le a.w0
  have toNat_zero {x : Limb} (h : ¬x ≠ 0) : x.toNat = 0 := congrArg BitVec.toNat (not_not.mp h)
  unfold clzCount LimbStore.val
  split_ifs with h3 h2 h1
  · exact add_limb_mul_lt_two_pow a.w3 (by omega) (by omega)
  all_goals rw [toNat_zero h3, Nat.zero_mul, Nat.add_zero]
  · exact add_limb_mul_lt_two_pow a.w2 (by omega) (by omega)
  all_goals rw [toNat_zero h2, Nat.zero_mul, Nat.add_zero]
  · exact add_limb_mul_lt_two_pow a.w1 (by omega) (by omega)
  · rw [toNat_zero h1, Nat.zero_mul, Nat.add_zero]
    exact (toNat_lt_two_pow_clz64 a.w0).trans_le (Nat.pow_le_pow_right (by decide) (by omega))

/-- Settles O21. -/
theorem shiftLaws : Obligations.ShiftLaws := by
  unfold Obligations.ShiftLaws
  refine ⟨shrValue_zero, fun mode a k _ _ => ?multiple, fun mode a n => ?reduced,
    fun a n => ?bounded, fun a n hn => ?exhausted⟩
  case multiple =>
    have hk : shiftAmount (BitVec.ofInt 32 (256 * k)) = shiftAmount 0 := by
      rw [shiftAmount_ofInt, Int.mul_emod_right]
      rfl
    rw [shrValue_congr hk, shrValue_zero]
  case reduced =>
    apply shrValue_congr
    rw [shiftAmount_ofInt, Int.emod_emod, shiftAmount_eq_toInt_mod]
  case bounded =>
    rw [shrValue_logical_val]
    exact Nat.div_le_self _ _
  case exhausted =>
    rw [← shiftAmount_eq_toInt_mod] at hn
    have hlt : a.val < 2 ^ shiftAmount n :=
      (val_lt_two_pow_bitlen a).trans_le (Nat.pow_le_pow_right (by decide) hn)
    rw [shrValue_logical_eq_lstore, Nat.div_eq_of_lt hlt]
    rfl

theorem shrValue_shrValue_val (a : LimbStore) (n m : BitVec 32) :
    (shrValue .logical (shrValue .logical a n) m).val =
      a.val / 2 ^ (shiftAmount n + shiftAmount m) := by
  rw [shrValue_logical_val, shrValue_logical_val, Nat.div_div_eq_div_mul, pow_add]

/-- Settles O22: the divisions by `2^n` and `2^m` are one by `2^(n + m)`. -/
theorem logicalShiftsCompose : Obligations.LogicalShiftsCompose := by
  unfold Obligations.LogicalShiftsCompose
  refine fun a n m => ⟨fun hsum => ?add, fun hsum => ?vanish⟩ <;> apply LimbStore.val_inj
  case add =>
    have hamount := shiftAmount_ofNat (shiftAmount n + shiftAmount m)
    rw [Nat.mod_eq_of_lt (by omega)] at hamount
    rw [shrValue_shrValue_val, shrValue_logical_val, hamount]
  case vanish =>
    have hlt : a.val < 2 ^ (shiftAmount n + shiftAmount m) :=
      a.val_lt.trans_le (Nat.pow_le_pow_right (by decide) hsum)
    rw [shrValue_shrValue_val, Nat.div_eq_of_lt hlt, zero_val]

end Sys2Proof.Machine
end

section
/-! The comparator's decisions as numbers (43_compare.md R141 to R148): the scan from the most
significant limb decides numeric order, so the six tests are the six relations of the values. -/

namespace Sys2Proof.Machine

theorem val_eq_val_iff (a b : LimbStore) : a.val = b.val ↔ a = b :=
  ⟨LimbStore.val_inj a b, congrArg LimbStore.val⟩

/-- A greater leading digit outweighs every rest below the digit's weight `m`. -/
theorem digit_mul_add_lt {x y m p : Nat} (hxy : x < y) (hp : p < m) (q : Nat) :
    x * m + p < y * m + q :=
  calc x * m + p < x * m + m := Nat.add_lt_add_left hp _
    _ = (x + 1) * m := (Nat.succ_mul x m).symm
    _ ≤ y * m := Nat.mul_le_mul_right m hxy
    _ ≤ y * m + q := Nat.le_add_right _ _

/-- One step of the scan: if the rest of it orders `p` and `q`, then the scan with a pair of weight
`m` in front orders the two numbers with that leading digit. -/
theorem scanLt_cons_eq_true_iff (x y : Limb) {rest : List (Limb × Limb)} {m p q : Nat}
    (hp : p < m) (hq : q < m) (hrest : scanLt rest = true ↔ p < q) :
    scanLt ((x, y) :: rest) = true ↔ x.toNat * m + p < y.toNat * m + q := by
  by_cases hxy : x = y
  · subst hxy
    rw [scanLt_cons_self, hrest, Nat.add_lt_add_iff_left]
  · rw [scanLt_cons_ne x y rest hxy, decide_eq_true_iff]
    rcases Nat.lt_or_gt_of_ne (fun h => hxy (BitVec.eq_of_toNat_eq h)) with hlt | hgt
    · exact iff_of_true hlt (digit_mul_add_lt hlt hp q)
    · exact iff_of_false hgt.asymm (digit_mul_add_lt hgt hq p).asymm

/-- The comparator decides numeric order (R141, R144). -/
theorem ltTest_eq_true_iff (a b : LimbStore) : ltTest a b = true ↔ a.val < b.val := by
  have := a.w0.isLt
  have := a.w1.isLt
  have := a.w2.isLt
  have := b.w0.isLt
  have := b.w1.isLt
  have := b.w2.isLt
  have scan0 := scanLt_cons_eq_true_iff a.w0 b.w0 (rest := []) (m := 1) (p := 0) (q := 0)
    (by omega) (by omega) (by decide)
  have scan1 := scanLt_cons_eq_true_iff a.w1 b.w1 (m := 2 ^ 64) (by omega) (by omega) scan0
  have scan2 := scanLt_cons_eq_true_iff a.w2 b.w2 (m := 2 ^ 128) (by omega) (by omega) scan1
  have scan3 := scanLt_cons_eq_true_iff a.w3 b.w3 (m := 2 ^ 192) (by omega) (by omega) scan2
  rw [ltTest, scan3, LimbStore.val, LimbStore.val]
  omega

theorem gtTest_eq_true_iff (a b : LimbStore) : gtTest a b = true ↔ a.val > b.val :=
  ltTest_eq_true_iff b a

theorem leTest_eq_true_iff (a b : LimbStore) : leTest a b = true ↔ a.val ≤ b.val := by
  rw [leTest, Bool.not_eq_true', ← Bool.not_eq_true, ltTest_eq_true_iff, Nat.not_lt]

theorem geTest_eq_true_iff (a b : LimbStore) : geTest a b = true ↔ a.val ≥ b.val :=
  leTest_eq_true_iff b a

theorem eqTest_eq_true_iff_val (a b : LimbStore) : eqTest a b = true ↔ a.val = b.val := by
  rw [eqTest_eq_true_iff, val_eq_val_iff]

theorem neTest_eq_true_iff_val (a b : LimbStore) : neTest a b = true ↔ a.val ≠ b.val := by
  rw [neTest_eq_true_iff, ne_eq, ne_eq, val_eq_val_iff]

/-- What an instruction that commits a truth value does, by the proposition it decides (R140). -/
theorem exec_of_truth {i : Instr} {p : Bool} {P : Prop} [Decidable P] (s : State)
    (hexec : exec i s = .next (s.commitScalar (truthScalar p))) (hp : p = true ↔ P) :
    exec i s = .next (s.commitScalar (if P then 1 else 0)) := by
  rw [hexec, truthScalar_of_iff hp]

/-- Settles O23: the four limb pairs are equal exactly when the values are. -/
theorem eqWritesEquality : Obligations.EqWritesEquality := by
  unfold Obligations.EqWritesEquality
  exact fun A B n s => ⟨rfl, exec_of_truth s rfl (eqTest_eq_true_iff_val A B)⟩

/-- Settles O24: NE is the negation of EQ. -/
theorem neWritesInequality : Obligations.NeWritesInequality := by
  unfold Obligations.NeWritesInequality
  exact fun A B n s => ⟨rfl, exec_of_truth s rfl (neTest_eq_true_iff_val A B)⟩

/-- Settles O25: the first unequal limb pair from the top decides the order of the values. -/
theorem ltWritesNumericOrder : Obligations.LtWritesNumericOrder := by
  unfold Obligations.LtWritesNumericOrder
  exact fun A B n s => ⟨rfl, exec_of_truth s rfl (ltTest_eq_true_iff A B)⟩

/-- Settles O26: LE is the negation of LT with the operands swapped. -/
theorem leWritesNumericOrder : Obligations.LeWritesNumericOrder := by
  unfold Obligations.LeWritesNumericOrder
  exact fun A B n s => ⟨rfl, exec_of_truth s rfl (leTest_eq_true_iff A B)⟩

/-- Settles O27: GT is LT with the operands swapped. -/
theorem gtWritesNumericOrder : Obligations.GtWritesNumericOrder := by
  unfold Obligations.GtWritesNumericOrder
  exact fun A B n s => ⟨rfl, exec_of_truth s rfl (gtTest_eq_true_iff A B)⟩

/-- Settles O28: GE is the negation of LT. -/
theorem geWritesNumericOrder : Obligations.GeWritesNumericOrder := by
  unfold Obligations.GeWritesNumericOrder
  exact fun A B n s => ⟨rfl, exec_of_truth s rfl (geTest_eq_true_iff A B)⟩

/-- Settles O29: each law is the law of the order of natural numbers. -/
theorem orderLaws : Obligations.OrderLaws := by
  unfold Obligations.OrderLaws
  refine ⟨fun a b => ?trichotomy, fun a b c => ?transitive, fun a b => ⟨?le, ?ge, rfl, rfl⟩⟩
  case trichotomy =>
    simp only [← Bool.not_eq_true, ltTest_eq_true_iff, eqTest_eq_true_iff_val, gtTest_eq_true_iff]
    rcases Nat.lt_trichotomy a.val b.val with hlt | heq | hgt
    · exact .inl ⟨hlt, hlt.ne, hlt.asymm⟩
    · exact .inr (.inl ⟨heq.not_lt, heq, heq.not_gt⟩)
    · exact .inr (.inr ⟨hgt.asymm, hgt.ne', hgt⟩)
  case transitive =>
    simp only [ltTest_eq_true_iff]
    exact Nat.lt_trans
  case le =>
    rw [Bool.eq_iff_iff, Bool.or_eq_true, leTest_eq_true_iff, ltTest_eq_true_iff,
      eqTest_eq_true_iff_val, Nat.le_iff_lt_or_eq]
  case ge =>
    rw [Bool.eq_iff_iff, Bool.or_eq_true, geTest_eq_true_iff, gtTest_eq_true_iff,
      eqTest_eq_true_iff_val, ge_iff_le, Nat.le_iff_lt_or_eq, gt_iff_lt, eq_comm]

end Sys2Proof.Machine
end

section
/-! The bit counts as facts about the value (44_bitcount.md R161 to R163): which of its bits are
set, and how many. -/

namespace Sys2Proof.Machine

/-- Bit `j` of limb `i` has weight `2^(64 i + j)` (00_scope.md R8). -/
theorem val_testBit_limb (a : LimbStore) {i j : Nat} (hi : i < 4) (hj : j < 64) :
    a.val.testBit (64 * i + j) = (a.w i).getLsbD j := by
  rw [bitNumbering a _ (by omega), show (64 * i + j) / 64 = i by omega,
    show (64 * i + j) % 64 = j by omega]

theorem zero_val_testBit (k : Nat) : LimbStore.zero.val.testBit k = false := by
  rw [zero_val, Nat.zero_testBit]

theorem ne_zero_of_testBit {a : LimbStore} {k : Nat} (hk : a.val.testBit k = true) :
    a ≠ .zero := by
  rintro rfl
  exact absurd hk (by simp [zero_val_testBit])

/-- The counts below `m` and from `m` on make up the whole count. -/
theorem countP_range_add (p : Nat → Bool) (m n : Nat) :
    (List.range (m + n)).countP p =
      (List.range m).countP p + (List.range n).countP fun k => p (m + k) := by
  rw [List.range_add, List.countP_append, List.countP_map]
  rfl

theorem countP_limb (a : LimbStore) {i : Nat} (hi : i < 4) :
    ((List.range 64).countP fun k => a.val.testBit (64 * i + k)) = pop64 (a.w i) := by
  refine List.countP_congr fun k hk => ?_
  rw [val_testBit_limb a hi (List.mem_range.mp hk)]

theorem countP_limbs (a : LimbStore) {n : Nat} (hn : n ≤ 4) :
    ((List.range (64 * n)).countP fun k => a.val.testBit k) =
      ∑ i ∈ Finset.range n, pop64 (a.w i) := by
  induction n with
  | zero => rfl
  | succ n ih =>
    rw [Nat.mul_succ, countP_range_add, ih (by omega), countP_limb a hn, Finset.sum_range_succ]

/-- POPCNT counts the 1 bits of the value (R161). -/
theorem popcntCount_eq_countP (a : LimbStore) :
    popcntCount a = (List.range 256).countP fun k => a.val.testBit k := by
  rw [show 256 = 64 * 4 from rfl, countP_limbs a le_rfl]
  simp only [Finset.sum_range_succ, Finset.sum_range_zero, Nat.zero_add, LimbStore.w_zero,
    LimbStore.w_one, LimbStore.w_two, LimbStore.w_three, popcntCount]

/-- A nonzero limb has a 1 bit for the scan from the top to stop at. -/
theorem clz64_lt {x : Limb} (hx : x ≠ 0) : clz64 x < 64 := by
  refine lt_of_le_of_ne (clz64_le x) fun h => hx (BitVec.eq_of_toNat_eq ?_)
  have := toNat_lt_two_pow_clz64 x
  rw [h] at this
  exact Nat.lt_one_iff.mp this

/-- A nonzero limb has a 1 bit for the scan from the bottom to stop at. -/
theorem ctz64_lt {x : Limb} (hx : x ≠ 0) : ctz64 x < 64 := by
  obtain ⟨below_clear, -⟩ := ctz64_spec x
  refine lt_of_le_of_ne (ctz64_le x) fun h => hx (BitVec.eq_of_getLsbD_eq fun i hi => ?_)
  exact (below_clear i (h ▸ hi)).trans BitVec.getLsbD_zero.symm

/-- CLZ's offset counts the limbs above the one that holds the highest 1 bit (R162). -/
theorem clzCount_limb {a : LimbStore} (ha : a ≠ .zero) :
    ∃ q < 4, a.w (3 - q) ≠ 0 ∧ clzCount a = 64 * q + clz64 (a.w (3 - q)) := by
  unfold clzCount
  split_ifs with h3 h2 h1
  · exact ⟨0, by decide, h3, (Nat.zero_add _).symm⟩
  · exact ⟨1, by decide, h2, rfl⟩
  · exact ⟨2, by decide, h1, rfl⟩
  · have h0 : a.w0 ≠ 0 := by
      simpa only [h3, h2, h1, or_false] using (ne_zero_iff_exists_limb a).mp ha
    exact ⟨3, by decide, h0, rfl⟩

/-- CTZ's offset counts the zero limbs below the one that holds the lowest 1 bit (R163). -/
theorem ctzCount_limb {a : LimbStore} (ha : a ≠ .zero) :
    ∃ q < 4, a.w q ≠ 0 ∧ (∀ i < q, a.w i = 0) ∧ ctzCount a = 64 * q + ctz64 (a.w q) := by
  unfold ctzCount
  split_ifs with h0 h1 h2
  · exact ⟨0, by decide, h0, by simp, (Nat.zero_add _).symm⟩
  · exact ⟨1, by decide, h1, by simp_all, rfl⟩
  · refine ⟨2, by decide, h2, fun i hi => ?_, rfl⟩
    interval_cases i <;> simp_all
  · have h3 : a.w3 ≠ 0 := by
      simpa only [h0, h1, h2, false_or] using (ne_zero_iff_exists_limb a).mp ha
    refine ⟨3, by decide, h3, fun i hi => ?_, rfl⟩
    interval_cases i <;> simp_all

theorem clzCount_lt {a : LimbStore} (ha : a ≠ .zero) : clzCount a < 256 := by
  obtain ⟨q, hq, hlimb, hclz⟩ := clzCount_limb ha
  have := clz64_lt hlimb
  omega

theorem ctzCount_lt {a : LimbStore} (ha : a ≠ .zero) : ctzCount a < 256 := by
  obtain ⟨q, hq, hlimb, -, hctz⟩ := ctzCount_limb ha
  have := ctz64_lt hlimb
  omega

theorem clzCount_zero : clzCount .zero = 256 := by decide

theorem ctzCount_zero : ctzCount .zero = 256 := by decide

/-- The bit CLZ stops at is set. -/
theorem val_testBit_clzCount {a : LimbStore} (ha : a ≠ .zero) :
    a.val.testBit (255 - clzCount a) = true := by
  obtain ⟨q, hq, hlimb, hclz⟩ := clzCount_limb ha
  have hlt := clz64_lt hlimb
  have index : 255 - clzCount a = 64 * (3 - q) + (63 - clz64 (a.w (3 - q))) := by omega
  rw [index, val_testBit_limb a (by omega) (by omega)]
  exact (clz64_spec _).2 hlt

/-- The bit CTZ stops at is set. -/
theorem val_testBit_ctzCount {a : LimbStore} (ha : a ≠ .zero) :
    a.val.testBit (ctzCount a) = true := by
  obtain ⟨q, hq, hlimb, -, hctz⟩ := ctzCount_limb ha
  have hlt := ctz64_lt hlimb
  rw [hctz, val_testBit_limb a hq hlt]
  exact (ctz64_spec _).2 hlt

/-- No bit is set above the one CLZ stops at. -/
theorem lt_bitlen_of_testBit {a : LimbStore} {k : Nat} (hk : a.val.testBit k = true) :
    k < 256 - clzCount a :=
  (Nat.pow_lt_pow_iff_right (by decide)).mp
    ((Nat.ge_two_pow_of_testBit hk).trans_lt (val_lt_two_pow_bitlen a))

/-- No bit is set below the one CTZ stops at. -/
theorem ctzCount_le_of_testBit {a : LimbStore} {k : Nat} (hk : a.val.testBit k = true) :
    ctzCount a ≤ k := by
  obtain ⟨q, hq, -, lower_zero, hctz⟩ := ctzCount_limb (ne_zero_of_testBit hk)
  obtain ⟨below_clear, -⟩ := ctz64_spec (a.w q)
  have := ctz64_le (a.w q)
  by_contra! hlt
  have hj : k % 64 < 64 := Nat.mod_lt k (by decide)
  rw [← Nat.div_add_mod k 64, val_testBit_limb a (by omega) hj] at hk
  rcases lt_or_ge (k / 64) q with lower | same
  · simp [lower_zero _ lower] at hk
  · obtain rfl : k / 64 = q := by omega
    simp [below_clear (k % 64) (by omega)] at hk

/-- CLZ is 256 less the bit length of the value (R162). -/
theorem clzCount_eq_sub_size (a : LimbStore) : clzCount a = 256 - a.val.size := by
  rcases eq_or_ne a .zero with rfl | ha
  · rw [clzCount_zero, zero_val, Nat.size_zero]
  · have upper : a.val.size ≤ 256 - clzCount a := Nat.size_le.mpr (val_lt_two_pow_bitlen a)
    have lower : 255 - clzCount a < a.val.size :=
      Nat.lt_size.mpr (Nat.ge_two_pow_of_testBit (val_testBit_clzCount ha))
    have := clzCount_lt ha
    omega

/-- CTZ is the number of the first set bit (R163). -/
theorem ctzCount_eq_findIdx (a : LimbStore) :
    ctzCount a = (List.range 256).findIdx fun k => a.val.testBit k := by
  symm
  rcases eq_or_ne a .zero with rfl | ha
  · rw [ctzCount_zero]
    exact (List.findIdx_eq_length.mpr fun k _ => zero_val_testBit k).trans List.length_range
  · have hlt : ctzCount a < (List.range 256).length := by
      simpa only [List.length_range] using ctzCount_lt ha
    simp only [List.findIdx_eq hlt, List.getElem_range]
    refine ⟨val_testBit_ctzCount ha, fun j hj => ?_⟩
    exact Bool.eq_false_iff.mpr fun hset => hj.not_ge (ctzCount_le_of_testBit hset)

/-- Settles O30: the limbs' counts are the counts of the value's four ranges of bits. -/
theorem popcntCountsOnes : Obligations.PopcntCountsOnes := by
  unfold Obligations.PopcntCountsOnes
  refine fun A B n s => ⟨rfl, ?_⟩
  rw [← popcntCount_eq_countP]
  rfl

/-- Settles O31: the value is below two to its bit length, and the bit CLZ stops at is set. -/
theorem clzCountsLeadingZeros : Obligations.ClzCountsLeadingZeros := by
  unfold Obligations.ClzCountsLeadingZeros
  refine fun A B n s => ⟨rfl, ?_⟩
  rw [← clzCount_eq_sub_size]
  rfl

/-- Settles O32: the bit CTZ stops at is set, and none below it is. -/
theorem ctzCountsTrailingZeros : Obligations.CtzCountsTrailingZeros := by
  unfold Obligations.CtzCountsTrailingZeros
  refine fun A B n s => ⟨rfl, ?_⟩
  rw [← ctzCount_eq_findIdx]
  rfl

end Sys2Proof.Machine
end

section
/-! The bit-count laws (44_bitcount.md R164): every set bit of a value lies between the two bits
that CTZ and CLZ stop at. -/

namespace Sys2Proof.Machine

/-- A limb and its complement have 64 set bits between them. -/
theorem pop64_add_pop64_not (x : Limb) : pop64 x + pop64 (~~~x) = 64 := by
  have complement : pop64 (~~~x) =
      (List.range 64).countP fun k => decide ¬x.getLsbD k = true := by
    refine List.countP_congr fun k hk => ?_
    simp [List.mem_range.mp hk]
  rw [complement, pop64, ← List.length_eq_countP_add_countP, List.length_range]

theorem popcntCount_add_popcntCount_notValue (a : LimbStore) :
    popcntCount a + popcntCount (notValue a) = 256 := by
  have := pop64_add_pop64_not a.w0
  have := pop64_add_pop64_not a.w1
  have := pop64_add_pop64_not a.w2
  have := pop64_add_pop64_not a.w3
  simp only [popcntCount, notValue]
  omega

theorem clzCount_eq_256_iff (a : LimbStore) : clzCount a = 256 ↔ a = .zero :=
  ⟨fun h => of_not_not fun ha => (clzCount_lt ha).ne h, fun h => h ▸ clzCount_zero⟩

theorem ctzCount_eq_256_iff (a : LimbStore) : ctzCount a = 256 ↔ a = .zero :=
  ⟨fun h => of_not_not fun ha => (ctzCount_lt ha).ne h, fun h => h ▸ ctzCount_zero⟩

/-- The lowest set bit is not above the highest. -/
theorem clzCount_add_ctzCount_le {a : LimbStore} (ha : a ≠ .zero) :
    clzCount a + ctzCount a ≤ 255 := by
  have := ctzCount_le_of_testBit (val_testBit_clzCount ha)
  have := clzCount_lt ha
  omega

/-- There are no more set bits than places from the lowest set bit to the highest. -/
theorem popcntCount_le_sub (a : LimbStore) :
    popcntCount a ≤ 256 - clzCount a - ctzCount a := by
  have set_bits : popcntCount a =
      ((Finset.range 256).filter fun k => a.val.testBit k = true).card := by
    rw [popcntCount_eq_countP, ← Nat.count_eq_card_filter_range, Nat.count]
    simp only [Bool.decide_eq_true]
  rw [set_bits, ← Nat.card_Ico]
  refine Finset.card_le_card fun k hk => ?_
  have hset := (Finset.mem_filter.mp hk).2
  exact Finset.mem_Ico.mpr ⟨ctzCount_le_of_testBit hset, lt_bitlen_of_testBit hset⟩

/-- One set bit: the lowest is the highest. -/
theorem clzCount_add_ctzCount_eq_255_iff (a : LimbStore) :
    clzCount a + ctzCount a = 255 ↔ ∃ k, k < 256 ∧ a.val = 2 ^ k := by
  constructor
  · intro hsum
    have ha : a ≠ .zero := fun h => by
      rw [h, clzCount_zero] at hsum
      omega
    refine ⟨ctzCount a, ctzCount_lt ha, Nat.eq_of_testBit_eq fun k => ?_⟩
    rw [Nat.testBit_two_pow, Bool.eq_iff_iff, decide_eq_true_iff]
    constructor
    · intro hset
      have := ctzCount_le_of_testBit hset
      have := lt_bitlen_of_testBit hset
      omega
    · rintro rfl
      exact val_testBit_ctzCount ha
  · rintro ⟨k, -, hval⟩
    have only_bit {j : Nat} (hset : a.val.testBit j = true) : k = j := by
      rwa [hval, Nat.testBit_two_pow, decide_eq_true_iff] at hset
    have ha : a ≠ .zero := ne_zero_of_testBit (k := k) (by rw [hval, Nat.testBit_two_pow_self])
    have hclz := only_bit (val_testBit_clzCount ha)
    have hctz := only_bit (val_testBit_ctzCount ha)
    have := clzCount_lt ha
    omega

/-- Settles O33: every law but the first is about the lowest and the highest set bit. -/
theorem bitCountLaws : Obligations.BitCountLaws := by
  unfold Obligations.BitCountLaws
  exact ⟨popcntCount_add_popcntCount_notValue, clzCount_eq_256_iff, ctzCount_eq_256_iff,
    fun a ha => ⟨clzCount_add_ctzCount_le ha, popcntCount_le_sub a⟩,
    clzCount_add_ctzCount_eq_255_iff⟩

end Sys2Proof.Machine
end

section
/-! The exceptions (60_exceptions.md R180, R181): a step takes `IllegalOp` and goes on, and the
assigned instructions raise nothing. -/

namespace Sys2Proof.Machine

/-- The oldest waiting request is a transaction with an unassigned opcode: the decoder finds no row
for it, and the exception is raised with the request taken (R180). -/
theorem step_transact_of_wf_eq_false {s : State} {x : Transaction} {rest : List HostEvent}
    (hin : s.inbox = .transact x :: rest) (hwf : x.wf = false) :
    step s = .next ((s.withInbox rest).raiseIllegalOp x.OP) := by
  rw [step_request s _ rest hin, runEvent_transact,
    transact_illegalOp x _ x.OP (decode_of_wf_eq_false hwf)]

/-- Settles O39. -/
theorem stepTakesIllegalOp : Obligations.StepTakesIllegalOp := by
  unfold Obligations.StepTakesIllegalOp
  intro s x rest hin hwf
  exact step_transact_of_wf_eq_false hin hwf

/-- Settles O47: an instruction ends by committing a value or by committing a scalar. -/
theorem everyInstructionCompletes : Obligations.EveryInstructionCompletes := by
  unfold Obligations.EveryInstructionCompletes
  intro i s
  obtain ⟨r, hr⟩ | ⟨q, -, hq⟩ := exec_cases i s.shrMode
  · exact ⟨s.commitValue r, hr s rfl, s.commitValue_ST r, s.commitValue_written r⟩
  · exact ⟨s.commitScalar q, hq s, s.commitScalar_ST q, s.commitScalar_written q⟩

end Sys2Proof.Machine
end

section
/-! Reset, idling and output holding (70_reset_and_hazards.md R200, R206). -/

namespace Sys2Proof.Machine

/-- The oldest waiting request is a reset: it is applied with the request taken (R200). -/
theorem step_reset {s : State} {rest : List HostEvent} (hin : s.inbox = .reset :: rest) :
    step s = .next (s.withInbox rest).applyReset := by
  rw [step_request s _ rest hin, runEvent_reset]

/-- The oldest waiting request is a read: the step changes no register (R206). -/
theorem step_read_keeps_registers {s t : State} {e : HostEvent} {rest : List HostEvent}
    (hin : s.inbox = e :: rest) (he : e.isRead = true) (h : step s = .next t) :
    t.R = s.R ∧ t.Q = s.Q ∧ t.ST = s.ST ∧ t.written = s.written := by
  obtain ⟨u, hu, hregs⟩ := runEvent_read_keeps_registers (s.withInbox rest) he
  rw [step_request s e rest hin, hu] at h
  obtain rfl := Host.Outcome.next.inj h
  simpa only [State.withInbox_R, State.withInbox_Q, State.withInbox_ST,
    State.withInbox_written] using hregs

/-- Settles O42. -/
theorem resetAction : Obligations.ResetAction := by
  unfold Obligations.ResetAction
  intro s rest hin
  exact ⟨_, step_reset hin, State.applyReset_ST _, State.applyReset_written _⟩

/-- Settles O43: the reset of the registers keeps what taking the request left of the host's side. -/
theorem hostSideOfIdleAndReset : Obligations.HostSideOfIdleAndReset := by
  unfold Obligations.HostSideOfIdleAndReset
  refine ⟨step_idle, fun s rest hin => ⟨_, step_reset hin, ?inbox, ?delivered, ?shrMode⟩⟩
  case inbox => rw [State.applyReset_inbox, State.withInbox_inbox]
  case delivered => rw [State.applyReset_delivered, State.withInbox_delivered]
  case shrMode => rw [State.applyReset_shrMode, State.withInbox_shrMode]

/-- Settles O46: such a step is idle or takes a read. -/
theorem outputsHeldBetweenTransactions : Obligations.OutputsHeldBetweenTransactions := by
  unfold Obligations.OutputsHeldBetweenTransactions
  intro s t hno_transact hno_reset h
  cases hin : s.inbox with
  | nil =>
    rw [step_idle s hin] at h
    obtain rfl := Host.Outcome.next.inj h
    exact ⟨rfl, rfl, rfl, rfl⟩
  | cons e rest =>
    cases e with
    | transact x => exact absurd hin (hno_transact x rest)
    | reset => exact absurd hin (hno_reset rest)
    | readR | readQ | readST => exact step_read_keeps_registers hin rfl h

end Sys2Proof.Machine
end
